-- ==== Sys2Proof/Word.lean ====
section
/-! DEFINITION. The machine's word types (00_scope.md R6, R7): every value is unsigned. -/

namespace Sys2Proof

/-- A byte: a general register, a timer, a memory cell, an immediate `NN` (R6, R7). -/
abbrev Byte := BitVec 8

/-- A 16-bit word: an instruction, `pc`, `I`, a stack slot (R6, R80). -/
abbrev Word := BitVec 16

/-- A 4-bit field: a register index `X`, `Y`, a height `N`, a logical key (R6, R81). -/
abbrev Nibble := BitVec 4

/-- The 12-bit address field `NNN` (R81). -/
abbrev Addr := BitVec 12

end Sys2Proof
end

