-- ==== Sys2Proof/Config.lean ====
section
/-! DEFINITION. What an implementation fixes (00_scope.md R6) and the values the spec leaves open.
The first are plain data, held by State so that a claim ranges over them; the second are opaque constants
without a body, applied to a plain counter of State: nothing constrains them. -/

namespace Sys2Proof.Config

/-- `MEM_SIZE` (R6, R50). -/
def memSize : Nat := 4096

/-- `STACK_DEPTH` (R6, R28). -/
def stackDepth : Nat := 16

/-- `FX0A_MODE` (R6, R205, D6): what `FX0A` does when no key is pressed. -/
inductive Fx0aMode where
  /-- `pc` advances all the same (the spec's default). -/
  | poll
  /-- nothing changes, so the instruction runs again in the next cycle. -/
  | block
deriving DecidableEq, Repr, Inhabited

/-- `FX0A_PICK` (R6, R205, D7): which of several pressed keys `FX0A` takes. -/
inductive Fx0aPick where
  /-- any of them, by a free value (the spec's default). -/
  | any
  /-- DESIGN CHOICE (log entry 7): the one that stands first in a fixed scan order; any, where the order lists none
  of them. -/
  | first (order : List Nibble)
deriving DecidableEq, Repr, Inhabited

/-- The 80 bytes of `FONT` (R6, R58). -/
abbrev Font := Vector Byte 80

/-- `FB_H` rows of `FB_W` cells (R6, R31). -/
abbrev Frame := Vector (Vector Bool 64) 32

/-- PRESUMED (log entry 2), unsafe: the conventional font the spec gives as `FONT`'s default (R58, D2). -/
def defaultFont : Font :=
  ⟨((#[0xF0, 0x90, 0x90, 0x90, 0xF0] : Array Byte) ++
    #[0x20, 0x60, 0x20, 0x20, 0x70] ++
    #[0xF0, 0x10, 0xF0, 0x80, 0xF0] ++
    #[0xF0, 0x10, 0xF0, 0x10, 0xF0] ++
    #[0x90, 0x90, 0xF0, 0x10, 0x10] ++
    #[0xF0, 0x80, 0xF0, 0x10, 0xF0] ++
    #[0xF0, 0x80, 0xF0, 0x90, 0xF0] ++
    #[0xF0, 0x10, 0x20, 0x40, 0x40] ++
    #[0xF0, 0x90, 0xF0, 0x90, 0xF0] ++
    #[0xF0, 0x90, 0xF0, 0x10, 0xF0] ++
    #[0xF0, 0x90, 0xF0, 0x90, 0x90] ++
    #[0xE0, 0x90, 0xE0, 0x90, 0xE0] ++
    #[0xF0, 0x80, 0x80, 0x80, 0xF0] ++
    #[0xE0, 0x90, 0x90, 0x90, 0xE0] ++
    #[0xF0, 0x80, 0xF0, 0x80, 0xF0] ++
    #[0xF0, 0x80, 0xF0, 0x80, 0x80]),
    by decide⟩

/-- The named parameters of R6 that a model takes as arguments. -/
structure Params where
  /-- `PROGRAM_START` (R6, D1): an address of the array. -/
  programStart : Addr
  /-- `FONT` (R6, R58, D2). -/
  font : Font
  /-- `FX0A_MODE` (R6, R205, D6). -/
  fx0aMode : Fx0aMode
  /-- `FX0A_PICK` (R6, R205, D7). -/
  fx0aPick : Fx0aPick
deriving DecidableEq, Repr, Inhabited

/-- PRESUMED (log entries 1, 2; the last two are the spec's decisions, log entries 6, 7), unsafe: the defaults R6 shows. -/
def Params.default : Params :=
  { programStart := 0x200, font := defaultFont, fx0aMode := .poll, fx0aPick := .any }

/-- FREE VALUE (log entry 17): the `n`-th byte `RandomByte()` gives (R145, D19, U5). -/
opaque randomByte : Nat → Byte

/-- FREE VALUE (log entry 18): the answer to `KeyQuery(k)` at the `n`-th draw (R201, D20, U6). -/
opaque keyAnswer : Nat → Nibble → Bool

/-- FREE VALUE (log entry 7): which of several pressed keys `FX0A` takes at the `n`-th draw (R205, D7, U9). -/
opaque keyPick : Nat → Nat

/-- FREE VALUE (log entry 13): `V` after a data access has faulted (R222, U4). -/
opaque residueV : Nat → Vector Byte 16

/-- FREE VALUE (log entry 13): `I` after a data access has faulted (R160, D14). -/
opaque residueI : Nat → Word

/-- FREE VALUE (log entry 13): `pc` after a data access has faulted (R160, D14); the fault's record keeps the true one. -/
opaque residuePc : Nat → Word

/-- FREE VALUE (log entry 13): the stack slots after a data access has faulted (R160, D14). -/
opaque residueStack : Nat → Vector Word 16

/-- FREE VALUE (log entry 13): `sp` after a data access has faulted (R160, D14). -/
opaque residueSp : Nat → Fin 17

/-- FREE VALUE (log entry 13): `DT` after a data access has faulted (R160, D14). -/
opaque residueDT : Nat → Byte

/-- FREE VALUE (log entry 13): `ST` after a data access has faulted (R160, D14). -/
opaque residueST : Nat → Byte

/-- FREE VALUE (log entry 13): `fb` after a data access has faulted (R222, U4). -/
opaque residueFb : Nat → Frame

/-- FREE VALUE (log entry 13): `draw` after a data access has faulted (R160, D14). -/
opaque residueDraw : Nat → Bool

/-- FREE VALUE (log entry 13): the byte at an address after a data access has faulted (R222, U4). -/
opaque residueMem : Nat → Nat → Byte

end Sys2Proof.Config
end

