-- ==== Sys2Proof/Syntax.lean ====
section
/-! DEFINITION. The instructions: one constructor per row of spec/opcode_table.json (30_encoding.md R86), in its
order. The operands are the fields the row names, each a bit vector of the field's width, so that they are in range
by construction (R82). -/

namespace Sys2Proof

/-- The 34 instructions of R86. `x`, `y` are register indices, `n` a count, `nn` an immediate byte, `nnn` an address. -/
inductive Instr where
  /-- `00E0` CLS (R180) -/
  | cls
  /-- `00EE` RET (R111) -/
  | ret
  /-- `1NNN` JP NNN (R112) -/
  | jp (nnn : Addr)
  /-- `2NNN` CALL NNN (R113) -/
  | call (nnn : Addr)
  /-- `3XNN` SE VX, NN (R114) -/
  | seImm (x : Nibble) (nn : Byte)
  /-- `4XNN` SNE VX, NN (R115) -/
  | sneImm (x : Nibble) (nn : Byte)
  /-- `5XY0` SE VX, VY (R116) -/
  | seReg (x y : Nibble)
  /-- `6XNN` LD VX, NN (R131) -/
  | ldImm (x : Nibble) (nn : Byte)
  /-- `7XNN` ADD VX, NN (R132) -/
  | addImm (x : Nibble) (nn : Byte)
  /-- `8XY0` LD VX, VY (R133) -/
  | ldReg (x y : Nibble)
  /-- `8XY1` OR VX, VY (R134) -/
  | orReg (x y : Nibble)
  /-- `8XY2` AND VX, VY (R135) -/
  | andReg (x y : Nibble)
  /-- `8XY3` XOR VX, VY (R136) -/
  | xorReg (x y : Nibble)
  /-- `8XY4` ADD VX, VY (R137) -/
  | addReg (x y : Nibble)
  /-- `8XY5` SUB VX, VY (R138) -/
  | subReg (x y : Nibble)
  /-- `8XY6` SHR VX (R139); `y` is decoded and not read -/
  | shr (x y : Nibble)
  /-- `8XY7` SUBN VX, VY (R140) -/
  | subnReg (x y : Nibble)
  /-- `8XYE` SHL VX (R141); `y` is decoded and not read -/
  | shl (x y : Nibble)
  /-- `9XY0` SNE VX, VY (R117) -/
  | sneReg (x y : Nibble)
  /-- `ANNN` LD I, NNN (R161) -/
  | ldI (nnn : Addr)
  /-- `BNNN` JP V0, NNN (R118) -/
  | jpV0 (nnn : Addr)
  /-- `CXNN` RND VX, NN (R145) -/
  | rnd (x : Nibble) (nn : Byte)
  /-- `DXYN` DRW VX, VY, N (R181) -/
  | drw (x y n : Nibble)
  /-- `EX9E` SKP VX (R202) -/
  | skp (x : Nibble)
  /-- `EXA1` SKNP VX (R203) -/
  | sknp (x : Nibble)
  /-- `FX07` LD VX, DT (R204) -/
  | ldVxDt (x : Nibble)
  /-- `FX0A` LD VX, K (R205) -/
  | ldVxK (x : Nibble)
  /-- `FX15` LD DT, VX (R206) -/
  | ldDtVx (x : Nibble)
  /-- `FX18` LD ST, VX (R207) -/
  | ldStVx (x : Nibble)
  /-- `FX1E` ADD I, VX (R162) -/
  | addIVx (x : Nibble)
  /-- `FX29` LD F, VX (R163) -/
  | ldFVx (x : Nibble)
  /-- `FX33` LD B, VX (R164) -/
  | ldBVx (x : Nibble)
  /-- `FX55` LD [I], VX (R165) -/
  | storeRegs (x : Nibble)
  /-- `FX65` LD VX, [I] (R166) -/
  | loadRegs (x : Nibble)
deriving DecidableEq, Repr

end Sys2Proof
end

