-- ==== Sys2Proof/WellFormed.lean ====
section
/-! DEFINITION. The opcode map of 30_encoding.md R86 as data, and the checks on what is given to the machine.

Every term of `Instr` is well formed: its operands are fields of the right width (R82). What can be ill formed is a
WORD (it selects no row, or it spells an instruction with other don't-care bits than its canonical pattern) and a
program IMAGE (longer than the space from `PROGRAM_START`). -/

namespace Sys2Proof

/-- A row of the opcode map: the pattern, the match and mask that SELECT the instruction (R86), and the match and
mask of its CANONICAL spelling, in which the don't-care bits of R85 are as the pattern writes them. -/
structure OpRow where
  pattern : String
  pat : Word
  mask : Word
  canonPat : Word
  canonMask : Word
deriving DecidableEq, Repr

/-- The row of an instruction (R86; the canonical spelling of `00E0`, `00EE`, `5XY0`, `9XY0`: R85, D25). -/
def Instr.row : Instr → OpRow
  | .cls => ⟨"00E0", 0x0000, 0xF00F, 0x00E0, 0xFFFF⟩
  | .ret => ⟨"00EE", 0x000E, 0xF00F, 0x00EE, 0xFFFF⟩
  | .jp _ => ⟨"1NNN", 0x1000, 0xF000, 0x1000, 0xF000⟩
  | .call _ => ⟨"2NNN", 0x2000, 0xF000, 0x2000, 0xF000⟩
  | .seImm _ _ => ⟨"3XNN", 0x3000, 0xF000, 0x3000, 0xF000⟩
  | .sneImm _ _ => ⟨"4XNN", 0x4000, 0xF000, 0x4000, 0xF000⟩
  | .seReg _ _ => ⟨"5XY0", 0x5000, 0xF000, 0x5000, 0xF00F⟩
  | .ldImm _ _ => ⟨"6XNN", 0x6000, 0xF000, 0x6000, 0xF000⟩
  | .addImm _ _ => ⟨"7XNN", 0x7000, 0xF000, 0x7000, 0xF000⟩
  | .ldReg _ _ => ⟨"8XY0", 0x8000, 0xF00F, 0x8000, 0xF00F⟩
  | .orReg _ _ => ⟨"8XY1", 0x8001, 0xF00F, 0x8001, 0xF00F⟩
  | .andReg _ _ => ⟨"8XY2", 0x8002, 0xF00F, 0x8002, 0xF00F⟩
  | .xorReg _ _ => ⟨"8XY3", 0x8003, 0xF00F, 0x8003, 0xF00F⟩
  | .addReg _ _ => ⟨"8XY4", 0x8004, 0xF00F, 0x8004, 0xF00F⟩
  | .subReg _ _ => ⟨"8XY5", 0x8005, 0xF00F, 0x8005, 0xF00F⟩
  | .shr _ _ => ⟨"8XY6", 0x8006, 0xF00F, 0x8006, 0xF00F⟩
  | .subnReg _ _ => ⟨"8XY7", 0x8007, 0xF00F, 0x8007, 0xF00F⟩
  | .shl _ _ => ⟨"8XYE", 0x800E, 0xF00F, 0x800E, 0xF00F⟩
  | .sneReg _ _ => ⟨"9XY0", 0x9000, 0xF000, 0x9000, 0xF00F⟩
  | .ldI _ => ⟨"ANNN", 0xA000, 0xF000, 0xA000, 0xF000⟩
  | .jpV0 _ => ⟨"BNNN", 0xB000, 0xF000, 0xB000, 0xF000⟩
  | .rnd _ _ => ⟨"CXNN", 0xC000, 0xF000, 0xC000, 0xF000⟩
  | .drw _ _ _ => ⟨"DXYN", 0xD000, 0xF000, 0xD000, 0xF000⟩
  | .skp _ => ⟨"EX9E", 0xE09E, 0xF0FF, 0xE09E, 0xF0FF⟩
  | .sknp _ => ⟨"EXA1", 0xE0A1, 0xF0FF, 0xE0A1, 0xF0FF⟩
  | .ldVxDt _ => ⟨"FX07", 0xF007, 0xF0FF, 0xF007, 0xF0FF⟩
  | .ldVxK _ => ⟨"FX0A", 0xF00A, 0xF0FF, 0xF00A, 0xF0FF⟩
  | .ldDtVx _ => ⟨"FX15", 0xF015, 0xF0FF, 0xF015, 0xF0FF⟩
  | .ldStVx _ => ⟨"FX18", 0xF018, 0xF0FF, 0xF018, 0xF0FF⟩
  | .addIVx _ => ⟨"FX1E", 0xF01E, 0xF0FF, 0xF01E, 0xF0FF⟩
  | .ldFVx _ => ⟨"FX29", 0xF029, 0xF0FF, 0xF029, 0xF0FF⟩
  | .ldBVx _ => ⟨"FX33", 0xF033, 0xF0FF, 0xF033, 0xF0FF⟩
  | .storeRegs _ => ⟨"FX55", 0xF055, 0xF0FF, 0xF055, 0xF0FF⟩
  | .loadRegs _ => ⟨"FX65", 0xF065, 0xF0FF, 0xF065, 0xF0FF⟩

/-- The opcode map: the 34 rows, in the order of R86. -/
def opTable : List OpRow :=
  (List.flatten [
    [Instr.cls, .ret, .jp 0, .call 0, .seImm 0 0, .sneImm 0 0, .seReg 0 0, .ldImm 0 0, .addImm 0 0],
    [.ldReg 0 0, .orReg 0 0, .andReg 0 0, .xorReg 0 0, .addReg 0 0, .subReg 0 0, .shr 0 0, .subnReg 0 0,
      .shl 0 0, .sneReg 0 0],
    [.ldI 0, .jpV0 0, .rnd 0 0, .drw 0 0 0, .skp 0, .sknp 0],
    [.ldVxDt 0, .ldVxK 0, .ldDtVx 0, .ldStVx 0, .addIVx 0, .ldFVx 0, .ldBVx 0, .storeRegs 0,
      .loadRegs 0]]).map Instr.row

/-- The word selects the row (R86: `(w & mask) = match`). -/
def OpRow.selects (r : OpRow) (w : Word) : Bool := w &&& r.mask == r.pat

/-- The word is the row's canonical spelling (R85, D25). -/
def OpRow.spells (r : OpRow) (w : Word) : Bool := w &&& r.canonMask == r.canonPat

/-- The word is an instruction at all (R87): it selects some row. -/
def knownWord (w : Word) : Bool := opTable.any fun r => r.selects w

/-- The word is the canonical spelling of an instruction: the premise decision D25 offers a claim. -/
def canonicalWord (w : Word) : Bool := opTable.any fun r => r.spells w

/-- The image fits between `PROGRAM_START` and the end of the array (70_reset_and_hazards.md R251). -/
def imageFits (start : Addr) (bytes : List Byte) : Bool :=
  decide (bytes.length ≤ Config.memSize - start.toNat)

end Sys2Proof
end

