-- ==== Sys2Proof/Decode.lean ====
section
/-! DEFINITION. The instruction decoder (30_encoding.md R81 to R88), total on any bytes, and the encoder written
from the same table (R86). -/

namespace Sys2Proof

/-- `F`, the family: `w[15:12]` (R81). -/
def fieldF (w : Word) : Nibble := w.extractLsb' 12 4

/-- `X`: `w[11:8]` (R81). -/
def fieldX (w : Word) : Nibble := w.extractLsb' 8 4

/-- `Y`: `w[7:4]` (R81). -/
def fieldY (w : Word) : Nibble := w.extractLsb' 4 4

/-- `N`: `w[3:0]` (R81). -/
def fieldN (w : Word) : Nibble := w.extractLsb' 0 4

/-- `NN`: `w[7:0]` (R81). -/
def fieldNN (w : Word) : Byte := w.extractLsb' 0 8

/-- `NNN`: `w[11:0]` (R81). -/
def fieldNNN (w : Word) : Addr := w.extractLsb' 0 12

/-- What a word decodes to (R83): an instruction of R86 or `Unknown(w)`. -/
inductive Decoded where
  | instr (i : Instr)
  | unknown (w : Word)
deriving DecidableEq, Repr

/-- Family 0x0, sub-selected by `N`; bits 11..4 are ignored (R84, R85). -/
def decodeFamily0 (w : Word) : Decoded :=
  match fieldN w with
  | 0x0#4 => .instr .cls
  | 0xE#4 => .instr .ret
  | _ => .unknown w

/-- Family 0x8, sub-selected by `N` (R84, R86). -/
def decodeFamily8 (w : Word) : Decoded :=
  match fieldN w with
  | 0x0#4 => .instr (.ldReg (fieldX w) (fieldY w))
  | 0x1#4 => .instr (.orReg (fieldX w) (fieldY w))
  | 0x2#4 => .instr (.andReg (fieldX w) (fieldY w))
  | 0x3#4 => .instr (.xorReg (fieldX w) (fieldY w))
  | 0x4#4 => .instr (.addReg (fieldX w) (fieldY w))
  | 0x5#4 => .instr (.subReg (fieldX w) (fieldY w))
  | 0x6#4 => .instr (.shr (fieldX w) (fieldY w))
  | 0x7#4 => .instr (.subnReg (fieldX w) (fieldY w))
  | 0xE#4 => .instr (.shl (fieldX w) (fieldY w))
  | _ => .unknown w

/-- Family 0xE, sub-selected by `NN` (R84, R86). -/
def decodeFamilyE (w : Word) : Decoded :=
  match fieldNN w with
  | 0x9E#8 => .instr (.skp (fieldX w))
  | 0xA1#8 => .instr (.sknp (fieldX w))
  | _ => .unknown w

/-- Family 0xF, sub-selected by `NN` (R84, R86). -/
def decodeFamilyF (w : Word) : Decoded :=
  match fieldNN w with
  | 0x07#8 => .instr (.ldVxDt (fieldX w))
  | 0x0A#8 => .instr (.ldVxK (fieldX w))
  | 0x15#8 => .instr (.ldDtVx (fieldX w))
  | 0x18#8 => .instr (.ldStVx (fieldX w))
  | 0x1E#8 => .instr (.addIVx (fieldX w))
  | 0x29#8 => .instr (.ldFVx (fieldX w))
  | 0x33#8 => .instr (.ldBVx (fieldX w))
  | 0x55#8 => .instr (.storeRegs (fieldX w))
  | 0x65#8 => .instr (.loadRegs (fieldX w))
  | _ => .unknown w

/-- The dispatch multiplexer: first by `F`, then by the family's sub-select (R84). The last arm is family 0xF. -/
def decode (w : Word) : Decoded :=
  match fieldF w with
  | 0x0#4 => decodeFamily0 w
  | 0x1#4 => .instr (.jp (fieldNNN w))
  | 0x2#4 => .instr (.call (fieldNNN w))
  | 0x3#4 => .instr (.seImm (fieldX w) (fieldNN w))
  | 0x4#4 => .instr (.sneImm (fieldX w) (fieldNN w))
  | 0x5#4 => .instr (.seReg (fieldX w) (fieldY w))
  | 0x6#4 => .instr (.ldImm (fieldX w) (fieldNN w))
  | 0x7#4 => .instr (.addImm (fieldX w) (fieldNN w))
  | 0x8#4 => decodeFamily8 w
  | 0x9#4 => .instr (.sneReg (fieldX w) (fieldY w))
  | 0xA#4 => .instr (.ldI (fieldNNN w))
  | 0xB#4 => .instr (.jpV0 (fieldNNN w))
  | 0xC#4 => .instr (.rnd (fieldX w) (fieldNN w))
  | 0xD#4 => .instr (.drw (fieldX w) (fieldY w) (fieldN w))
  | 0xE#4 => decodeFamilyE w
  | _ => decodeFamilyF w

/-- An instruction word of two bytes, the byte at the lower address most significant (R55, R80). -/
def wordOfBytes (hi lo : Byte) : Word := hi ++ lo

/-- The byte of a word that lies at the lower address (R55). -/
def highByte (w : Word) : Byte := w.extractLsb' 8 8

/-- The byte of a word that lies at the higher address (R55). -/
def lowByte (w : Word) : Byte := w.extractLsb' 0 8

/-- Why bytes are no instruction. -/
inductive DecodeReject where
  /-- fewer than the two bytes of an instruction (R80) -/
  | truncated
  /-- a word that matches no row (R87) -/
  | unknownWord (w : Word)
deriving DecidableEq, Repr

/-- The instruction at the head of a list of bytes, with the bytes after it. -/
def decodeBytes : List Byte → Except DecodeReject (Instr × List Byte)
  | hi :: lo :: rest =>
    match decode (wordOfBytes hi lo) with
    | .instr i => .ok (i, rest)
    | .unknown w => .error (.unknownWord w)
  | _ => .error .truncated

/-- A word of format NNN (R81). -/
def wordNNN (f : Nibble) (nnn : Addr) : Word := f ++ nnn

/-- A word of format XNN or X (R81). -/
def wordXNN (f x : Nibble) (nn : Byte) : Word := f ++ x ++ nn

/-- A word of format XY or XYN (R81). -/
def wordXYN (f x y n : Nibble) : Word := f ++ x ++ y ++ n

/-- The canonical word of an instruction (R86, R91): the pattern with its fields filled in. -/
def encode : Instr → Word
  | .cls => 0x00E0
  | .ret => 0x00EE
  | .jp nnn => wordNNN 0x1 nnn
  | .call nnn => wordNNN 0x2 nnn
  | .seImm x nn => wordXNN 0x3 x nn
  | .sneImm x nn => wordXNN 0x4 x nn
  | .seReg x y => wordXYN 0x5 x y 0x0
  | .ldImm x nn => wordXNN 0x6 x nn
  | .addImm x nn => wordXNN 0x7 x nn
  | .ldReg x y => wordXYN 0x8 x y 0x0
  | .orReg x y => wordXYN 0x8 x y 0x1
  | .andReg x y => wordXYN 0x8 x y 0x2
  | .xorReg x y => wordXYN 0x8 x y 0x3
  | .addReg x y => wordXYN 0x8 x y 0x4
  | .subReg x y => wordXYN 0x8 x y 0x5
  | .shr x y => wordXYN 0x8 x y 0x6
  | .subnReg x y => wordXYN 0x8 x y 0x7
  | .shl x y => wordXYN 0x8 x y 0xE
  | .sneReg x y => wordXYN 0x9 x y 0x0
  | .ldI nnn => wordNNN 0xA nnn
  | .jpV0 nnn => wordNNN 0xB nnn
  | .rnd x nn => wordXNN 0xC x nn
  | .drw x y n => wordXYN 0xD x y n
  | .skp x => wordXNN 0xE x 0x9E
  | .sknp x => wordXNN 0xE x 0xA1
  | .ldVxDt x => wordXNN 0xF x 0x07
  | .ldVxK x => wordXNN 0xF x 0x0A
  | .ldDtVx x => wordXNN 0xF x 0x15
  | .ldStVx x => wordXNN 0xF x 0x18
  | .addIVx x => wordXNN 0xF x 0x1E
  | .ldFVx x => wordXNN 0xF x 0x29
  | .ldBVx x => wordXNN 0xF x 0x33
  | .storeRegs x => wordXNN 0xF x 0x55
  | .loadRegs x => wordXNN 0xF x 0x65

/-- The canonical bytes of an instruction, the lower address first (R55, R80). -/
def encodeBytes (i : Instr) : List Byte := [highByte (encode i), lowByte (encode i)]

/-- The word whose bits are `w`, of which the table gives `nbits`; the bits above them are zero. -/
def tableWord (nbits w : Nat) : Word := BitVec.ofNat 16 (w % 2 ^ nbits)

/-- The instruction the decoder reads from the word, laid out as the hardware stores it (R55). -/
def decodeTableWord (nbits w : Nat) : Option Instr :=
  match decodeBytes [highByte (tableWord nbits w), lowByte (tableWord nbits w)] with
  | .ok (i, _) => some i
  | .error _ => none

end Sys2Proof
end

