-- ==== Sys2Proof/Machine/State.lean ====
section
/-! DEFINITION. The state of the machine as plain data: the tuple S of 10_state.md R20, the implementation
parameters of 00_scope.md R6, and the model's own fields for what the host chooses and is answered. -/

namespace Sys2Proof.Machine

/-- The block's fatal conditions (60_exceptions.md R220), each with the information it records. -/
inductive FaultKind where
  /-- code 1: a word that matches no instruction (R221) -/
  | unknownOpcode (w : Word)
  /-- code 2: `2NNN` with sixteen return addresses held (R223) -/
  | stackOverflow
  /-- code 3: `00EE` with none held (R224) -/
  | stackUnderflow
  /-- code 4: an access outside 0..4095 (R225) -/
  | memoryOutOfRange (addr : Nat)
  /-- code 5: `EX9E` or `EXA1` with `V[X] > 15` (R226) -/
  | keyIndexOutOfRange (v : Byte)
deriving DecidableEq, Repr

/-- What a fault records: itself and the address of the instruction whose cycle raised it (R220). -/
structure FaultRecord where
  kind : FaultKind
  pc : Word
deriving DecidableEq, Repr

/-- `status` (R35). -/
inductive Status where
  | running
  | faulted (r : FaultRecord)
deriving DecidableEq, Repr

/-- The steps the host may choose (60_exceptions.md R239, R240). -/
inductive HostMove where
  /-- one fetch, decode and execute (R89) -/
  | cycle
  /-- one decrement of both timers (R230) -/
  | tick
  /-- the frame hand-off (R185) -/
  | takeFrame
  /-- a program load, which is the reset (R250, R251) -/
  | load (bytes : List Byte)
deriving DecidableEq, Repr

/-- What the last `TakeFrame` or `Load` returned to the host (R185, R251). -/
inductive Reply where
  /-- neither has been taken yet -/
  | nothingYet
  /-- `TakeFrame` returned `Some(frame)` -/
  | frame (f : Config.Frame)
  /-- `TakeFrame` returned `None` -/
  | noFrame
  /-- `Load` returned `Ok` -/
  | loadOk
  /-- `Load` returned `LoadError::TooLarge` -/
  | loadTooLarge
deriving DecidableEq, Repr

/-- Where the machine stops. -/
inductive Fault where
  /-- Raised by the step when the host's next move is `Cycle` or `Tick` and `status` is `Faulted`: no cycle or tick
  is taken then (R35, R222). Safe: the spec gives such a step no effect. -/
  | halted (r : FaultRecord)
deriving DecidableEq, Repr

/-- Why an instruction would have no meaning. -/
inductive Refusal where
  /-- Raised by an arm of the dispatch whose instruction has no meaning yet; no arm does. Safe: nothing is claimed. -/
  | notModelled (mnemonic : String)
deriving DecidableEq, Repr

/-- The state: R20's tuple, then the parameters of R6, then the model's own fields. -/
structure State where
  /-- `V[0..15]`; VF is also the flag (R22, R24) -/
  V : Vector Byte 16
  /-- the index register (R25) -/
  I : Word
  /-- the program counter (R26) -/
  pc : Word
  /-- the return-address slots (R28) -/
  stack : Vector Word 16
  /-- how many return addresses are held, 0..16 (R29) -/
  sp : Fin 17
  /-- the delay timer (R30) -/
  DT : Byte
  /-- the sound timer (R30) -/
  ST : Byte
  /-- the framebuffer: `fb[y][x]` is column `x`, row `y` (R31) -/
  fb : Config.Frame
  /-- the draw-flag (R32) -/
  draw : Bool
  /-- `mem[0..4095]` (R50): the cells that differ from the reset image, addresses rising (log entry 21) -/
  mem : List Host.Cell
  /-- `rng` (R34): how many random bytes have been drawn (log entry 17) -/
  rng : Nat
  /-- the run status (R35) -/
  status : Status
  /-- `PROGRAM_START`, `FONT`, `FX0A_MODE`, `FX0A_PICK` (00_scope.md R6); no step changes them -/
  params : Config.Params
  /-- the model's own: how many other free values have been drawn (log entries 13, 18) -/
  draws : Nat
  /-- the model's own: the host's coming moves, head first; none listed means `Cycle` (log entry 16) -/
  agenda : List HostMove
  /-- the model's own: what the last `TakeFrame` or `Load` returned (log entry 24) -/
  reply : Reply
deriving DecidableEq, Repr

/-- The state right after the load of an empty image on a machine with the given parameters (R37, R59, R250). -/
def State.resetWith (p : Config.Params) : State where
  V := Vector.replicate 16 0
  I := 0
  pc := p.programStart.setWidth 16
  stack := Vector.replicate 16 0
  sp := 0
  DT := 0
  ST := 0
  fb := Vector.replicate 32 (Vector.replicate 64 false)
  draw := false
  mem := []
  rng := 0
  status := .running
  params := p
  draws := 0
  agenda := []
  reply := .nothingYet

/-- The machine right after reset (R37), with the default parameters R6 shows. -/
def State.reset : State := State.resetWith Config.Params.default

end Sys2Proof.Machine
end

