-- ==== Sys2Proof/Machine/Ops.lean ====
section
/-! DEFINITION. The named operations over memory and registers, and raising a fault. Every access to State by an
instruction goes through these. -/

namespace Sys2Proof.Machine

/-! ## Memory as a canonical list of cells (20_memory.md) -/

/-- What an address reads as that no write has changed: the reset image of R59 without a program, the font at
0x000..0x04F and zero above (log entry 21). -/
def resetByte (font : Config.Font) (a : Nat) : Byte :=
  if h : a < 80 then font[a] else 0

/-- The canonical form: addresses strictly rising, all in the array, no cell equal to what it reads as unlisted. -/
abbrev Memory.wf (font : Config.Font) (m : List Host.Cell) : Prop :=
  m.Pairwise (fun c d => c.1 < d.1) ∧ ∀ c ∈ m, c.1 < Config.memSize ∧ c.2 ≠ resetByte font c.1

/-- The byte at an address. -/
def Memory.byteAt (font : Config.Font) : List Host.Cell → Nat → Byte
  | [], a => resetByte font a
  | (b, v) :: rest, a => if b = a then v else Memory.byteAt font rest a

/-- Put a cell in its place among cells with other addresses. -/
def Memory.insert (a : Nat) (v : Byte) : List Host.Cell → List Host.Cell
  | [] => [(a, v)]
  | (b, w) :: rest => if a < b then (a, v) :: (b, w) :: rest else (b, w) :: Memory.insert a v rest

/-- Set the byte at an address, keeping the canonical form. -/
def Memory.setByte (font : Config.Font) (m : List Host.Cell) (a : Nat) (v : Byte) : List Host.Cell :=
  if v = resetByte font a then m.filter (fun c => c.1 ≠ a)
  else Memory.insert a v (m.filter (fun c => c.1 ≠ a))

/-- The cells of consecutive bytes laid from an address over the reset image (R59, the program bytes). -/
def Memory.image (font : Config.Font) : Nat → List Byte → List Host.Cell
  | _, [] => []
  | a, v :: vs =>
    if v = resetByte font a then Memory.image font (a + 1) vs else (a, v) :: Memory.image font (a + 1) vs

/-- The canonical cells of a memory given byte by byte. Irreducible: no proof needs to list its 4096 cells. -/
@[irreducible] def Memory.ofFn (font : Config.Font) (f : Nat → Byte) : List Host.Cell :=
  (List.range Config.memSize).filterMap fun a => if f a = resetByte font a then none else some (a, f a)

/-- `mem[a]` for an address of the array. -/
def State.byteAt (s : State) (a : Nat) : Byte := Memory.byteAt s.params.font s.mem a

/-- The state's memory is in canonical form. -/
abbrev State.memWf (s : State) : Prop := Memory.wf s.params.font s.mem

/-! ## Single updates of the state -/

/-- `V[x]` (R22). -/
def State.reg (s : State) (x : Nibble) : Byte := s.V[x.toNat]'x.isLt

/-- `V[x] <- v` (R22, R23). -/
def State.setReg (s : State) (x : Nibble) (v : Byte) : State := { s with V := s.V.set x.toNat v x.isLt }

/-- All of `V` at once. -/
def State.setV (s : State) (v : Vector Byte 16) : State := { s with V := v }

/-- `I <- v` (R25). -/
def State.setI (s : State) (v : Word) : State := { s with I := v }

/-- `pc <- target` (R26). -/
def State.setPc (s : State) (target : Word) : State := { s with pc := target }

/-- `DT <- v` (R30). -/
def State.setDT (s : State) (v : Byte) : State := { s with DT := v }

/-- `ST <- v` (R30). -/
def State.setST (s : State) (v : Byte) : State := { s with ST := v }

/-- A write of the framebuffer by an instruction: it also sets the draw-flag (R32, R186). -/
def State.paint (s : State) (f : Config.Frame) : State := { s with fb := f, draw := true }

/-- `draw <- 0` (R185). -/
def State.clearDraw (s : State) : State := { s with draw := false }

/-- Other memory cells. -/
def State.setMem (s : State) (m : List Host.Cell) : State := { s with mem := m }

/-- A random byte has been drawn (R34). -/
def State.drawnRandom (s : State) : State := { s with rng := s.rng + 1 }

/-- Another free value has been drawn. -/
def State.drawnInput (s : State) : State := { s with draws := s.draws + 1 }

/-- `status <- v` (R35). -/
def State.setStatus (s : State) (v : Status) : State := { s with status := v }

/-- What the host is answered. -/
def State.setReply (s : State) (r : Reply) : State := { s with reply := r }

/-- The host's coming moves. -/
def State.setAgenda (s : State) (l : List HostMove) : State := { s with agenda := l }

/-- `stack[sp] <- v; sp <- sp + 1` for a slot that exists (R29). -/
def State.pushed (s : State) (v : Word) (h : s.sp.val < 16) : State :=
  { s with stack := s.stack.set s.sp.val v h, sp := ⟨s.sp.val + 1, Nat.succ_lt_succ h⟩ }

/-- `sp <- n`, the slots as they are: a popped slot is not cleared (R29, R111). -/
def State.setSp (s : State) (n : Fin 17) : State := { s with sp := n }

/-! ## pc (10_state.md R27, 30_encoding.md R90) -/

/-- `pc <- pc + 2`. -/
def State.advance (s : State) : State := s.setPc (s.pc + 2)

/-- A skip: `pc + 4` when the condition holds, `pc + 2` otherwise (R27, R110). -/
def State.skipIf (s : State) (c : Bool) : State := s.setPc (if c then s.pc + 4 else s.pc + 2)

/-! ## Raising a fault (60_exceptions.md R222) -/

/-- `raise F(info)`: the status records the fault and the address of its instruction; the rest is as it was. -/
def State.raise (s : State) (k : FaultKind) : State := s.setStatus (.faulted { kind := k, pc := s.pc })

/-- What is left after a data access has faulted part-way: `V`, `mem` and `fb` are unspecified (R222, U4), and by R160
and D14 so is the rest; the parameters and the host's side stay (log entry 13). -/
def State.residue (s : State) : State :=
  { s with
    V := Config.residueV s.draws
    I := Config.residueI s.draws
    pc := Config.residuePc s.draws
    stack := Config.residueStack s.draws
    sp := Config.residueSp s.draws
    DT := Config.residueDT s.draws
    ST := Config.residueST s.draws
    fb := Config.residueFb s.draws
    draw := Config.residueDraw s.draws
    mem := Memory.ofFn s.params.font (Config.residueMem s.draws)
    draws := s.draws + 1 }

/-- `MemoryOutOfRange(a)` raised by a data access of `DXYN`, `FX33`, `FX55` or `FX65` (R222, R225). -/
def State.raiseData (s : State) (a : Nat) : State :=
  s.residue.setStatus (.faulted { kind := .memoryOutOfRange a, pc := s.pc })

/-! ## Memory accesses (20_memory.md R52 to R55) -/

/-- `MemRead(a, 1)`: the byte, or the address that is out of range (R52). -/
def State.memRead (s : State) (a : Nat) : Except Nat Byte :=
  if a < Config.memSize then .ok (s.byteAt a) else .error a

/-- `MemWrite(a, 1, v)`: the state after the write, or the address that is out of range (R53). -/
def State.memWrite (s : State) (a : Nat) (v : Byte) : Except Nat State :=
  if a < Config.memSize then .ok (s.setMem (Memory.setByte s.params.font s.mem a v)) else .error a

/-- `n` bytes from `a` on, in ascending order; the first address out of range ends it (R62, R160). -/
def State.readBytes (s : State) (a : Nat) : Nat → Except Nat (List Byte)
  | 0 => .ok []
  | n + 1 =>
    match s.memRead a with
    | .error e => .error e
    | .ok b =>
      match s.readBytes (a + 1) n with
      | .error e => .error e
      | .ok bs => .ok (b :: bs)

/-- Bytes written from `a` on, in ascending order; the first address out of range ends it (R62, R160). -/
def State.writeBytes (s : State) (a : Nat) : List Byte → Except Nat State
  | [] => .ok s
  | v :: vs =>
    match s.memWrite a v with
    | .error e => .error e
    | .ok s' => s'.writeBytes (a + 1) vs

/-- The fetch: `MemRead(pc, 1) ++ MemRead(pc + 1, 1)` (R55). -/
def State.fetch (s : State) : Except Nat Word :=
  match s.memRead s.pc.toNat with
  | .error e => .error e
  | .ok hi =>
    match s.memRead (s.pc.toNat + 1) with
    | .error e => .error e
    | .ok lo => .ok (wordOfBytes hi lo)

/-! ## The stack (10_state.md R29) -/

/-- Push a return address; `none` when sixteen are held (R223). -/
def State.push (s : State) (v : Word) : Option State :=
  if h : s.sp.val < 16 then some (s.pushed v h) else none

/-- Pop a return address; `none` when none is held (R224). -/
def State.pop (s : State) : Option (State × Word) :=
  if h : 0 < s.sp.val then
    some (s.setSp ⟨s.sp.val - 1, by omega⟩, s.stack[s.sp.val - 1]'(by omega))
  else none

end Sys2Proof.Machine
end

