-- ==== Sys2Proof/Machine/Devices.lean ====
section
/-! DEFINITION. The steps that are no cycle: the timer tick, the frame hand-off, the program load; and the block's
outputs (60_exceptions.md R230 to R241, 43_display.md R185, 70_reset_and_hazards.md R250 to R253). -/

namespace Sys2Proof.Machine

/-- One decrement, clamped at zero (R230). -/
def countDown (t : Byte) : Byte := if 0 < t.toNat then t - 1 else t

/-- `Tick` (R230): both timers, nothing else. -/
def State.tick (s : State) : State := (s.setDT (countDown s.DT)).setST (countDown s.ST)

/-- `TakeFrame` (R185): a copy of the framebuffer and the draw-flag cleared, or nothing. -/
def State.takeFrame (s : State) : State :=
  if s.draw then s.clearDraw.setReply (.frame s.fb) else s.setReply .noFrame

/-- `Load(programBytes)` (R250, R251, R252): `TooLarge` changes nothing but the reply; else every element of R37 is as
after reset, and the memory is the image of R59. The parameters, the numbering of free values and the host's coming
moves go on (log entry 23). -/
def State.load (s : State) (bytes : List Byte) : State :=
  if imageFits s.params.programStart bytes then
    { State.resetWith s.params with
      mem := Memory.image s.params.font s.params.programStart.toNat bytes
      rng := s.rng
      draws := s.draws
      agenda := s.agenda
      reply := .loadOk }
  else s.setReply .loadTooLarge

/-- The output `SoundActive` (R233): `ST > 0`. -/
def State.soundActive (s : State) : Bool := decide (0 < s.ST.toNat)

/-- The code of a fault (R220, D15). -/
def FaultKind.code : FaultKind → Nat
  | .unknownOpcode _ => 1
  | .stackOverflow => 2
  | .stackUnderflow => 3
  | .memoryOutOfRange _ => 4
  | .keyIndexOutOfRange _ => 5

end Sys2Proof.Machine
end

