-- ==== Sys2Proof/Machine/Flags.lean ====
section
/-! DEFINITION. The flag computations: what `V[0xF]` receives, always 0 or 1 (10_state.md R24, 41_alu.md R130, R142). -/

namespace Sys2Proof.Machine

/-- `V[0xF]`'s index (R24). -/
def flagReg : Nibble := 0xF

/-- A flag as a byte. -/
def flagByte (c : Bool) : Byte := if c then 1 else 0

/-- The carry out of the unsigned sum: `a + b > 255` (R137). -/
def carryFlag (a b : Byte) : Byte := flagByte (decide (255 < a.toNat + b.toNat))

/-- Not borrow of `a - b`: 0 when `a < b`, else 1 (R138). -/
def notBorrowFlag (a b : Byte) : Byte := flagByte (decide (b.toNat ≤ a.toNat))

/-- Not borrow of `b - a` (R140). -/
def notBorrowRevFlag (a b : Byte) : Byte := notBorrowFlag b a

/-- The bit a right shift moves out: bit 0 (R139). The second operand is not read. -/
def shrFlag (a _b : Byte) : Byte := a &&& 1

/-- The bit a left shift moves out: bit 7 (R141). The second operand is not read. -/
def shlFlag (a _b : Byte) : Byte := a >>> 7

end Sys2Proof.Machine
end

