-- ==== Sys2Proof/Machine/Operands.lean ====
section
/-! DEFINITION. The operand forms: immediates, addresses, decimal digits, register ranges (30_encoding.md R82,
42_index_memory.md R160, R167). -/

namespace Sys2Proof.Machine

/-- `zext_16(NNN)` (R82). -/
def zextAddr (nnn : Addr) : Word := nnn.setWidth 16

/-- `zext_16(v)` of a byte. -/
def zextByte (v : Byte) : Word := v.setWidth 16

/-- The effective address of the `k`-th byte: the exact integer `I + k` (R54, R160). -/
def State.dataAddr (s : State) (k : Nat) : Nat := s.I.toNat + k

/-- The computed jump target `V[0] + NNN` (R118); the sum fits in 16 bits. -/
def jumpTarget (v0 : Byte) (nnn : Addr) : Word := zextByte v0 + zextAddr nnn

/-- The address of the glyph of a value: `v * 5`, of the whole byte (R163). -/
def glyphAddr (v : Byte) : Word := BitVec.ofNat 16 (v.toNat * 5)

/-- `v div 100`, `(v div 10) mod 10`, `v mod 10` (R164). -/
def bcdDigits (v : Byte) : List Byte :=
  [BitVec.ofNat 8 (v.toNat / 100), BitVec.ofNat 8 (v.toNat / 10 % 10), BitVec.ofNat 8 (v.toNat % 10)]

/-- `V[0] .. V[X]` (R165). -/
def State.regsTo (s : State) (x : Nibble) : List Byte := s.V.toList.take (x.toNat + 1)

/-- `V` with its first registers replaced by the bytes given, in order (R166). -/
def withLeading (v : Vector Byte 16) (bytes : List Byte) : Vector Byte 16 :=
  Vector.ofFn fun i => (bytes[i.val]?).getD v[i.val]

end Sys2Proof.Machine
end

