-- ==== Sys2Proof/Machine/Alu.lean ====
section
/-! DEFINITION. Register loads, the ALU and the random byte (41_alu.md). -/

namespace Sys2Proof.Machine

/-- `V[X] <- f(V[X], V[Y])`, no flag, `pc + 2` (R133 to R136, R144). -/
def State.aluPlain (s : State) (x y : Nibble) (f : Byte → Byte → Byte) : State :=
  (s.setReg x (f (s.reg x) (s.reg y))).advance

/-- The flag-writing form, in the written order (R10, D4, log entry 4): first `V[0xF]`, then `V[X]` from the
registers as the flag's write left them, then `pc + 2` (R137 to R141). -/
def State.aluFlagged (s : State) (x y : Nibble) (flag f : Byte → Byte → Byte) : State :=
  (s.setReg flagReg (flag (s.reg x) (s.reg y))).aluPlain x y f

/-- `6XNN` (R131). -/
def execLdImm (x : Nibble) (nn : Byte) (s : State) : Host.Outcome State Fault Refusal :=
  .next (s.setReg x nn).advance

/-- `7XNN` (R132): no flag. -/
def execAddImm (x : Nibble) (nn : Byte) (s : State) : Host.Outcome State Fault Refusal :=
  .next (s.setReg x (s.reg x + nn)).advance

/-- `8XY0` (R133). -/
def execLdReg (x y : Nibble) (s : State) : Host.Outcome State Fault Refusal :=
  .next (s.aluPlain x y fun _ b => b)

/-- `8XY1` (R134). -/
def execOrReg (x y : Nibble) (s : State) : Host.Outcome State Fault Refusal :=
  .next (s.aluPlain x y fun a b => a ||| b)

/-- `8XY2` (R135). -/
def execAndReg (x y : Nibble) (s : State) : Host.Outcome State Fault Refusal :=
  .next (s.aluPlain x y fun a b => a &&& b)

/-- `8XY3` (R136). -/
def execXorReg (x y : Nibble) (s : State) : Host.Outcome State Fault Refusal :=
  .next (s.aluPlain x y fun a b => a ^^^ b)

/-- `8XY4` (R137). -/
def execAddReg (x y : Nibble) (s : State) : Host.Outcome State Fault Refusal :=
  .next (s.aluFlagged x y carryFlag fun a b => a + b)

/-- `8XY5` (R138). -/
def execSubReg (x y : Nibble) (s : State) : Host.Outcome State Fault Refusal :=
  .next (s.aluFlagged x y notBorrowFlag fun a b => a - b)

/-- `8XY6` (R139): `V[Y]` is not read. -/
def execShr (x y : Nibble) (s : State) : Host.Outcome State Fault Refusal :=
  .next (s.aluFlagged x y shrFlag fun a _ => a >>> 1)

/-- `8XY7` (R140). -/
def execSubnReg (x y : Nibble) (s : State) : Host.Outcome State Fault Refusal :=
  .next (s.aluFlagged x y notBorrowRevFlag fun a b => b - a)

/-- `8XYE` (R141): `V[Y]` is not read. -/
def execShl (x y : Nibble) (s : State) : Host.Outcome State Fault Refusal :=
  .next (s.aluFlagged x y shlFlag fun a _ => a <<< 1)

/-- `CXNN` (R145): the byte drawn is a free value (log entry 17); it is drawn also when `NN = 0`. -/
def execRnd (x : Nibble) (nn : Byte) (s : State) : Host.Outcome State Fault Refusal :=
  .next (s.drawnRandom.setReg x (Config.randomByte s.rng &&& nn)).advance

end Sys2Proof.Machine
end

