-- ==== Sys2Proof/Machine/Display.lean ====
section
/-! DEFINITION. The framebuffer: clear screen and the XOR sprite engine (43_display.md). -/

namespace Sys2Proof.Machine

/-- `fb(x, y)`, both coordinates reduced modulo the grid's size (R31, R183). -/
def Frame.cell (f : Config.Frame) (x y : Nat) : Bool :=
  (f[y % 32]'(Nat.mod_lt _ (by decide)))[x % 64]'(Nat.mod_lt _ (by decide))

/-- `fb(x, y) <- fb(x, y) ^ 1`, both coordinates reduced (R181, R183). -/
def Frame.toggle (f : Config.Frame) (x y : Nat) : Config.Frame :=
  f.set (y % 32)
    ((f[y % 32]'(Nat.mod_lt _ (by decide))).set (x % 64) (!Frame.cell f x y) (Nat.mod_lt _ (by decide)))
    (Nat.mod_lt _ (by decide))

/-- All cells 0 (R180). -/
def Frame.clear : Config.Frame := Vector.replicate 32 (Vector.replicate 64 false)

/-- Bit `7 - col` of a sprite row: bit 7 is the leftmost pixel (R182, D3, log entry 3). -/
def spriteBit (b : Byte) (col : Nat) : Bool := b.getLsbD (7 - col)

/-- The framebuffer and the collision found so far. -/
structure Canvas where
  fb : Config.Frame
  hit : Bool
deriving DecidableEq, Repr

/-- One pixel of a sprite: where its bit is set, a cell that is 1 is a collision, and the cell is toggled (R181). -/
def Canvas.pixel (c : Canvas) (b : Byte) (x0 y col : Nat) : Canvas :=
  if spriteBit b col then
    { fb := Frame.toggle c.fb (x0 + col) y, hit := c.hit || Frame.cell c.fb (x0 + col) y }
  else c

/-- One row of a sprite: columns 0 to 7 (R181). -/
def Canvas.row (c : Canvas) (b : Byte) (x0 y : Nat) : Canvas :=
  (List.range 8).foldl (fun c col => c.pixel b x0 y col) c

/-- A sprite's rows, one below the other (R181). -/
def Canvas.rows (c : Canvas) (x0 y : Nat) : List Byte → Canvas
  | [] => c
  | b :: bs => (c.row b x0 y).rows x0 (y + 1) bs

/-- The sprite's bytes drawn from column `x0`, row `y0` on. -/
def drawSprite (f : Config.Frame) (x0 y0 : Byte) (bytes : List Byte) : Canvas :=
  Canvas.rows { fb := f, hit := false } x0.toNat y0.toNat bytes

/-- `00E0` (R180): the draw-flag is set also when the screen was clear. -/
def execCls (s : State) : Host.Outcome State Fault Refusal := .next (s.paint Frame.clear).advance

/-- `DXYN` (R181): `V[X]`, `V[Y]`, `I`, `N` are latched first (D5, log entry 5); `V[0xF]` is the collision. -/
def execDrw (x y n : Nibble) (s : State) : Host.Outcome State Fault Refusal :=
  match s.readBytes (s.dataAddr 0) n.toNat with
  | .error a => .next (s.raiseData a)
  | .ok bytes =>
    .next ((s.setReg flagReg (flagByte (drawSprite s.fb (s.reg x) (s.reg y) bytes).hit)).paint
      (drawSprite s.fb (s.reg x) (s.reg y) bytes).fb).advance

end Sys2Proof.Machine
end

