-- ==== Sys2Proof/Machine/Index.lean ====
section
/-! DEFINITION. The index register and the memory transfers (42_index_memory.md). -/

namespace Sys2Proof.Machine

/-- The shared end of a storing instruction: the bytes go to `I, I + 1, ..` and `pc` advances, or the first address
out of range faults (R160). -/
def State.storeAtI (s : State) (bytes : List Byte) : State :=
  match s.writeBytes (s.dataAddr 0) bytes with
  | .error a => s.raiseData a
  | .ok s' => s'.advance

/-- `ANNN` (R161). -/
def execLdI (nnn : Addr) (s : State) : Host.Outcome State Fault Refusal :=
  .next (s.setI (zextAddr nnn)).advance

/-- `FX1E` (R162): modulo 2^16, no flag. -/
def execAddIVx (x : Nibble) (s : State) : Host.Outcome State Fault Refusal :=
  .next (s.setI (s.I + zextByte (s.reg x))).advance

/-- `FX29` (R163). -/
def execLdFVx (x : Nibble) (s : State) : Host.Outcome State Fault Refusal :=
  .next (s.setI (glyphAddr (s.reg x))).advance

/-- `FX33` (R164): hundreds, tens, units at `I`, `I + 1`, `I + 2`; `I` is unchanged. -/
def execLdBVx (x : Nibble) (s : State) : Host.Outcome State Fault Refusal :=
  .next (s.storeAtI (bcdDigits (s.reg x)))

/-- `FX55` (R165): `V[0] .. V[X]` at `I ..`; `I` is unchanged. -/
def execStoreRegs (x : Nibble) (s : State) : Host.Outcome State Fault Refusal :=
  .next (s.storeAtI (s.regsTo x))

/-- `FX65` (R166): `V[0] .. V[X]` from `I ..`; `I` is unchanged. -/
def execLoadRegs (x : Nibble) (s : State) : Host.Outcome State Fault Refusal :=
  match s.readBytes (s.dataAddr 0) (x.toNat + 1) with
  | .error a => .next (s.raiseData a)
  | .ok bytes => .next (s.setV (withLeading s.V bytes)).advance

end Sys2Proof.Machine
end

