-- ==== Sys2Proof/Machine/Input.lean ====
section
/-! DEFINITION. The key queries and the timer transfers (44_timers_input.md). -/

namespace Sys2Proof.Machine

/-- The shared form of `EX9E` and `EXA1`: `V[X] > 15` faults before any query (R201, R226); else skip when the
answer for key `V[X]`, a free value (log entry 18), is the one wanted. -/
def State.skipOnKey (s : State) (x : Nibble) (wanted : Bool) : State :=
  if 15 < (s.reg x).toNat then s.raise (.keyIndexOutOfRange (s.reg x))
  else s.drawnInput.skipIf (Config.keyAnswer s.draws ((s.reg x).setWidth 4) == wanted)

/-- The sixteen logical keys, 0..15 (R33). -/
def allKeys : List Nibble := (List.range 16).map (BitVec.ofNat 4)

/-- The keys a scan at the `n`-th draw finds pressed (R205). -/
def pressedKeys (n : Nat) : List Nibble := allKeys.filter (Config.keyAnswer n)

/-- Any one of the keys given, by a free choice; none of none. -/
def pickAny (n : Nat) (keys : List Nibble) : Option Nibble := keys[Config.keyPick n % keys.length]?

/-- `pick(P)`: one of the keys given, as `FX0A_PICK` says (R205, D7, log entry 7); none of none. -/
def pickKey (pick : Config.Fx0aPick) (n : Nat) (keys : List Nibble) : Option Nibble :=
  match pick with
  | .any => pickAny n keys
  | .first order => (order.find? keys.contains).or (pickAny n keys)

/-- `EX9E` (R202). -/
def execSkp (x : Nibble) (s : State) : Host.Outcome State Fault Refusal := .next (s.skipOnKey x true)

/-- `EXA1` (R203). -/
def execSknp (x : Nibble) (s : State) : Host.Outcome State Fault Refusal := .next (s.skipOnKey x false)

/-- `FX07` (R204). -/
def execLdVxDt (x : Nibble) (s : State) : Host.Outcome State Fault Refusal := .next (s.setReg x s.DT).advance

/-- What `FX0A` does with the key picked (R205): a key goes to `V[X]` and `pc` advances; with none, `poll` advances
and `block` leaves `pc` at this instruction. -/
def State.takeKey (s : State) (x : Nibble) (key : Option Nibble) : State :=
  match key with
  | some k => (s.setReg x (k.setWidth 8)).advance
  | none =>
    match s.params.fx0aMode with
    | .poll => s.advance
    | .block => s

/-- `FX0A` (R205): scan the sixteen keys once. -/
def execLdVxK (x : Nibble) (s : State) : Host.Outcome State Fault Refusal :=
  .next (s.drawnInput.takeKey x (pickKey s.params.fx0aPick s.draws (pressedKeys s.draws)))

/-- `FX15` (R206). -/
def execLdDtVx (x : Nibble) (s : State) : Host.Outcome State Fault Refusal := .next (s.setDT (s.reg x)).advance

/-- `FX18` (R207). -/
def execLdStVx (x : Nibble) (s : State) : Host.Outcome State Fault Refusal := .next (s.setST (s.reg x)).advance

end Sys2Proof.Machine
end

