-- ==== Sys2Proof/Machine/Cycle.lean ====
section
/-! DEFINITION. The instruction cycle (30_encoding.md R89) and the host's moves (60_exceptions.md R240). -/

namespace Sys2Proof.Machine

/-- `Cycle` while `Running` (R89, R227): fetch, decode, execute; a fetch out of range faults first, then an unknown
word. -/
def State.runCycle (s : State) : Host.Outcome State Fault Refusal :=
  match s.fetch with
  | .error a => .next (s.raise (.memoryOutOfRange a))
  | .ok w =>
    match decode w with
    | .unknown u => .next (s.raise (.unknownOpcode u))
    | .instr i => exec i s

/-- A move that is taken only while `Running` (R35): a faulted block stops there. -/
def State.whileRunning (s : State) (go : State → Host.Outcome State Fault Refusal) :
    Host.Outcome State Fault Refusal :=
  match s.status with
  | .running => go s
  | .faulted r => .fault (.halted r)

/-- One move of the host (R239, R240). `TakeFrame` and `Load` do not ask for `Running` (R35, R185, R250). -/
def State.hostMove (s : State) (m : HostMove) : Host.Outcome State Fault Refusal :=
  match m with
  | .cycle => s.whileRunning State.runCycle
  | .tick => s.whileRunning fun s => .next s.tick
  | .takeFrame => .next s.takeFrame
  | .load bytes => .next (s.load bytes)

/-- The host's next move; none listed means `Cycle` (log entry 16). -/
def State.nextMove (s : State) : HostMove := s.agenda.headD .cycle

/-- The state with the next move taken off the list. -/
def State.dropMove (s : State) : State := s.setAgenda s.agenda.tail

/-- Where an instruction can be placed: at `pc` when both its bytes lie in the array, else at address 0. -/
def State.fetchPlace (s : State) : Word := if s.pc.toNat + 1 < Config.memSize then s.pc else 0

/-- A word at an address of the array, the most significant byte first (R55). -/
def State.placeWord (s : State) (a : Nat) (w : Word) : State :=
  s.setMem (Memory.setByte s.params.font
    (Memory.setByte s.params.font s.mem a (highByte w)) (a + 1) (lowByte w))

/-- The host's moves with a `Cycle` first. -/
def cycleFirst : List HostMove → List HostMove
  | [] => []
  | .cycle :: rest => .cycle :: rest
  | m :: rest => .cycle :: m :: rest

end Sys2Proof.Machine
end

