-- ==== Sys2Proof/Machine/Step.lean ====
section
/-! DEFINITION. One step of the block (60_exceptions.md R240). -/

namespace Sys2Proof.Machine

/-- One atomic step: the host's next move (R240). -/
def step (s : State) : Host.Outcome State Fault Refusal := s.dropMove.hostMove s.nextMove

/-- The state with an instruction where the next step fetches it: its two bytes at `pc` (or at 0 where `pc` cannot
be fetched from), `Running`, and a `Cycle` as the host's next move (log entry 22). -/
def State.withFetchWord (s : State) (nbits w : Nat) : State :=
  (((s.placeWord s.fetchPlace.toNat (tableWord nbits w)).setPc s.fetchPlace).setStatus .running).setAgenda
    (cycleFirst s.agenda)

end Sys2Proof.Machine
end

