-- ==== Sys2Proof/Safety.lean ====
section
/-! DEFINITION. What counts as a safe run, and the words the statements use. -/

namespace Sys2Proof

/-- The instructions of 41_alu.md. -/
def Instr.isAlu : Instr → Bool
  | .ldImm _ _ | .addImm _ _ | .ldReg _ _ | .orReg _ _ | .andReg _ _ | .xorReg _ _ | .addReg _ _ | .subReg _ _
  | .shr _ _ | .subnReg _ _ | .shl _ _ | .rnd _ _ => true
  | .cls | .ret | .jp _ | .call _ | .seImm _ _ | .sneImm _ _ | .seReg _ _ | .sneReg _ _ | .ldI _ | .jpV0 _
  | .drw _ _ _ | .skp _ | .sknp _ | .ldVxDt _ | .ldVxK _ | .ldDtVx _ | .ldStVx _ | .addIVx _ | .ldFVx _
  | .ldBVx _ | .storeRegs _ | .loadRegs _ => false

/-- How many bytes from `I` on an instruction reads or writes (R62). -/
def Instr.dataBytes : Instr → Nat
  | .drw _ _ n => n.toNat
  | .ldBVx _ => 3
  | .storeRegs x => x.toNat + 1
  | .loadRegs x => x.toNat + 1
  | .cls | .ret | .jp _ | .call _ | .seImm _ _ | .sneImm _ _ | .seReg _ _ | .ldImm _ _ | .addImm _ _
  | .ldReg _ _ | .orReg _ _ | .andReg _ _ | .xorReg _ _ | .addReg _ _ | .subReg _ _ | .shr _ _ | .subnReg _ _
  | .shl _ _ | .sneReg _ _ | .ldI _ | .jpV0 _ | .rnd _ _ | .skp _ | .sknp _ | .ldVxDt _ | .ldVxK _
  | .ldDtVx _ | .ldStVx _ | .addIVx _ | .ldFVx _ => 0

/-- The instruction may write `V[r]`: as its flag or collision result, or as its destination (R24). -/
def Instr.writesReg (r : Nibble) : Instr → Prop
  | .addReg x _ | .subReg x _ | .shr x _ | .subnReg x _ | .shl x _ => r = x ∨ r = 0xF
  | .drw _ _ _ => r = 0xF
  | .ldImm x _ | .addImm x _ | .ldReg x _ | .orReg x _ | .andReg x _ | .xorReg x _ | .rnd x _ | .ldVxDt x
  | .ldVxK x => r = x
  | .loadRegs x => r.toNat ≤ x.toNat
  | .cls | .ret | .jp _ | .call _ | .seImm _ _ | .sneImm _ _ | .seReg _ _ | .sneReg _ _ | .ldI _ | .jpV0 _
  | .skp _ | .sknp _ | .ldDtVx _ | .ldStVx _ | .addIVx _ | .ldFVx _ | .ldBVx _ | .storeRegs _ => False

/-- The instructions that set `pc` by a rule of their own: transfers, skips and the key poll (R27, R200). -/
def Instr.setsPc : Instr → Bool
  | .ret | .jp _ | .call _ | .seImm _ _ | .sneImm _ _ | .seReg _ _ | .sneReg _ _ | .jpV0 _ | .skp _ | .sknp _
  | .ldVxK _ => true
  | .cls | .ldImm _ _ | .addImm _ _ | .ldReg _ _ | .orReg _ _ | .andReg _ _ | .xorReg _ _ | .addReg _ _
  | .subReg _ _ | .shr _ _ | .subnReg _ _ | .shl _ _ | .ldI _ | .rnd _ _ | .drw _ _ _ | .ldVxDt _ | .ldDtVx _
  | .ldStVx _ | .addIVx _ | .ldFVx _ | .ldBVx _ | .storeRegs _ | .loadRegs _ => false

end Sys2Proof

namespace Sys2Proof.Machine

/-- The block runs (R35). -/
abbrev State.Running (s : State) : Prop := s.status = .running

/-- The bound on `pc` while the block runs: a computed jump reaches at most 0x10FE (R27, R118). -/
abbrev State.PcBound (s : State) : Prop := s.pc.toNat ≤ 0x10FE

/-- The bound on return addresses: at most 0x1000 (R113). -/
abbrev State.StackBound (s : State) : Prop := ∀ j : Fin 16, s.stack[j].toNat ≤ 0x1000

/-- The invariant every step keeps: memory in canonical form and, while the block runs, `pc` and the return
addresses within their bounds, so that no sum of R27 wraps. After a fault nothing but the memory's form is said. -/
abbrev State.Inv (s : State) : Prop := s.memWf ∧ (s.Running → s.PcBound ∧ s.StackBound)

/-- `n` bytes from `I` on lie in the array. -/
abbrev State.DataInRange (s : State) (n : Nat) : Prop := s.I.toNat + n ≤ Config.memSize

/-- The first address out of range among the bytes from `I` on: `I` itself when it is 4096 or more, else 4096 (R160). -/
def State.firstBad (s : State) : Nat := if 4096 ≤ s.I.toNat then s.I.toNat else 4096

/-- The bytes a storing instruction writes from `I` on, in order (R164, R165). -/
def State.storedBytes (s : State) : Instr → List Byte
  | .ldBVx x => bcdDigits (s.reg x)
  | .storeRegs x => s.regsTo x
  | .cls | .ret | .jp _ | .call _ | .seImm _ _ | .sneImm _ _ | .seReg _ _ | .ldImm _ _ | .addImm _ _
  | .ldReg _ _ | .orReg _ _ | .andReg _ _ | .xorReg _ _ | .addReg _ _ | .subReg _ _ | .shr _ _ | .subnReg _ _
  | .shl _ _ | .sneReg _ _ | .ldI _ | .jpV0 _ | .rnd _ _ | .drw _ _ _ | .skp _ | .sknp _ | .ldVxDt _ | .ldVxK _
  | .ldDtVx _ | .ldStVx _ | .addIVx _ | .ldFVx _ | .loadRegs _ => []

/-- The byte an address holds after an instruction's stores: the byte stored there, else the one it held. -/
def State.byteAfterStore (s : State) (i : Instr) (a : Nat) : Byte :=
  if s.I.toNat ≤ a then ((s.storedBytes i)[a - s.I.toNat]?).getD (s.byteAt a) else s.byteAt a

/-- Every byte of memory reads as before. -/
def KeepsBytes (s t : State) : Prop := ∀ a, t.byteAt a = s.byteAt a

/-- The words `w` with `(w & mask) = match` decode to the instruction given by their fields (R86). -/
def SelectedBy (pat mask : Word) (f : Word → Instr) : Prop :=
  ∀ w : Word, w &&& mask = pat → decode w = .instr (f w)

/-- One register written and `pc` advanced by 2; every other register, every byte of memory and all the rest as before. -/
def RegWritten (s t : State) (x : Nibble) (v : Byte) : Prop :=
  t = { s with V := t.V, pc := s.pc + 2 } ∧ KeepsBytes s t ∧ t.reg x = v ∧ ∀ r, r ≠ x → t.reg r = s.reg r

/-- A flag written to `V[0xF]`, then `V[X]` from the registers as that write left them, and `pc` advanced by 2; every
other register, every byte of memory and all the rest as before (R10, 41_alu.md section 2). -/
def FlaggedWrite (s t : State) (x y : Nibble) (flag : Byte) (result : Nat → Nat → Nat) : Prop :=
  t = { s with V := t.V, pc := s.pc + 2 } ∧ KeepsBytes s t ∧
  (t.reg x).toNat = result (if x = 0xF then flag else s.reg x).toNat (if y = 0xF then flag else s.reg y).toNat ∧
  (x ≠ 0xF → t.reg 0xF = flag) ∧ ∀ r, r ≠ x → r ≠ 0xF → t.reg r = s.reg r

/-- The result of a raise: the status records the fault and the address of its instruction, and nothing else has
changed (R222). -/
def RaisedOnly (s t : State) (k : FaultKind) : Prop :=
  t = { s with status := .faulted { kind := k, pc := s.pc } }

/-- The cell at column `cx`, row `cy` is covered by a set bit of the sprite of `n` rows at `I` drawn from column `x0`,
row `y0`: bit 7 is the leftmost column, each pixel wraps (R181, R182, R183). -/
def State.Covers (s : State) (x0 y0 n cx cy : Nat) : Prop :=
  ∃ row < n, ∃ col < 8, (s.byteAt (s.I.toNat + row)).getLsbD (7 - col) = true ∧
    cx = (x0 + col) % 64 ∧ cy = (y0 + row) % 32

end Sys2Proof.Machine
end

