-- ==== Sys2Proof/Certificates/Slice0/Obligations.lean ====
section
/-! DEFINITION. The statements for the provers. Each one's docstring names the rule of spec/ it formalises, or the
section and the log entry it rests on. -/

open Sys2Proof Sys2Proof.Machine

/-! ## Encoding and decoding (30_encoding.md) -/

/-- Decode and encode agree on every instruction, with every operand at every value (30_encoding.md section 2). -/
def Obligations.DecodeOfEncodeIsTheInstruction : Prop := ∀ i : Instr, decode (encode i) = .instr i

/-- The words the encoder gives are exactly the canonical spellings (log entry 20; D25's premise). -/
def Obligations.CanonicalWordsAreTheEncodings : Prop :=
  ∀ w : Word, canonicalWord w = true ↔ ∃ i, decode w = .instr i ∧ encode i = w

/-- R83: the decoder is total, and every word decodes to either one instruction of R86, whose row is the only one the
word matches, or to `Unknown(w)`. -/
def Obligations.EveryWordIsOneInstructionOrUnknown : Prop :=
  ∀ w : Word,
    (∃ i, decode w = .instr i ∧ i.row ∈ opTable ∧ i.row.selects w = true ∧
      ∀ r ∈ opTable, r.selects w = true → r = i.row) ∨
    (decode w = .unknown w ∧ ∀ r ∈ opTable, r.selects w = false)

/-- The don't-care bits of R85 (the spec's decision D25, log entry 20): words of family 0x0 with the same `N`, and
words of families 0x5 and 0x9 with the same `X` and `Y`, are the same instruction or unknown alike. -/
def Obligations.DontCareBitsAreIgnored : Prop :=
  ∀ w v : Word, fieldF w = fieldF v →
    (fieldF w = 0x0 → fieldN w = fieldN v → ∀ i, decode w = .instr i ↔ decode v = .instr i) ∧
    (fieldF w = 0x5 ∨ fieldF w = 0x9 → fieldX w = fieldX v → fieldY w = fieldY v → decode w = decode v)

/-- The unknown words, family by family (30_encoding.md section 2, the table of unknown opcodes). -/
def Obligations.UnknownWordsByFamily : Prop :=
  ∀ w : Word, decode w = .unknown w ↔
    (fieldF w = 0x0 ∧ fieldN w ∉ ([0x0, 0xE] : List Nibble)) ∨
    (fieldF w = 0x8 ∧ fieldN w ∈ ([0x8, 0x9, 0xA, 0xB, 0xC, 0xD, 0xF] : List Nibble)) ∨
    (fieldF w = 0xE ∧ fieldNN w ∉ ([0x9E, 0xA1] : List Byte)) ∨
    (fieldF w = 0xF ∧ fieldNN w ∉ ([0x07, 0x0A, 0x15, 0x18, 0x1E, 0x29, 0x33, 0x55, 0x65] : List Byte))

/-- Words written out in 95_test_vectors.md section 2.1 and 2.2 decode to the instructions they stand for. That 0120,
012E, 5121 and 9121 are instructions at all is the spec's own decision D25 (log entry 20, DESIGN CHOICE). -/
def Obligations.WordsOfTheSpecDecode : Prop :=
  decode 0x0000 = .instr .cls ∧ decode 0x0120 = .instr .cls ∧ decode 0x012E = .instr .ret ∧
  decode 0x0001 = .unknown 0x0001 ∧ decode 0x00FF = .unknown 0x00FF ∧ decode 0x5121 = .instr (.seReg 1 2) ∧
  decode 0x9121 = .instr (.sneReg 1 2) ∧ decode 0x8128 = .unknown 0x8128 ∧ decode 0x812E = .instr (.shl 1 2) ∧
  decode 0xE19E = .instr (.skp 1) ∧ decode 0xE19F = .unknown 0xE19F ∧ decode 0xE1A1 = .instr (.sknp 1) ∧
  decode 0xF10A = .instr (.ldVxK 1) ∧ decode 0xF175 = .unknown 0xF175 ∧ decode 0x612A = .instr (.ldImm 1 0x2A)

/-! ## The cycle, faults and the host's moves (30_encoding.md, 60_exceptions.md, 70_reset_and_hazards.md) -/

/-- A step runs the decoded instruction (30_encoding.md section 3): while running and with a `Cycle` as the host's
next move, the step is the instruction's own meaning on the state whose list of moves has lost that move. -/
def Obligations.StepRunsTheDecodedInstruction : Prop :=
  ∀ (s : State) (w : Word) (i : Instr), s.Running → s.nextMove = .cycle → s.fetch = .ok w →
    decode w = .instr i → step s = exec i { s with agenda := s.agenda.tail }

/-- A word placed by `withFetchWord` is what the next step runs, on the state as placed less the move taken (log entry
22). -/
def Obligations.PlacedWordIsRunNext : Prop :=
  ∀ (s : State) (w : Nat) (i : Instr), decodeTableWord 16 w = some i →
    step (s.withFetchWord 16 w) = exec i (s.withFetchWord 16 w).dropMove

/-- R55: fetch reads two consecutive bytes big-endian; it succeeds exactly when `pc` is at most 4094, and else gives
`pc` when that is out of range and `pc + 1` when only that is. -/
def Obligations.FetchReadsTwoBytesBigEndian : Prop :=
  ∀ s : State,
    (s.pc.toNat ≤ 4094 → ∃ w, s.fetch = .ok w ∧
      w.toNat = 256 * (s.byteAt s.pc.toNat).toNat + (s.byteAt (s.pc.toNat + 1)).toNat) ∧
    (s.pc.toNat = 4095 → s.fetch = .error (s.pc.toNat + 1)) ∧
    (4096 ≤ s.pc.toNat → s.fetch = .error s.pc.toNat)

/-- R221: executing a word that matches no row raises `UnknownOpcode(w)` after the fetch and before any state change:
`pc` still holds the word's address, and nothing is written but the status (and the move taken off the list). -/
def Obligations.UnknownOpcodeIsFatal : Prop :=
  ∀ (s : State) (w : Word), s.Running → s.nextMove = .cycle → s.fetch = .ok w → knownWord w = false →
    step s = .next { s with
      agenda := s.agenda.tail
      status := .faulted { kind := .unknownOpcode w, pc := s.pc } }

/-- Any `MemRead` or `MemWrite` of an address outside 0..4095 raises `MemoryOutOfRange` with that address; for the
fetch it is `pc` when that is 4096 or more, else `pc + 1`, and nothing else changes; for a data access, the first one
out of range (60_exceptions.md section 1). The exact sums `I + k`, the ascending order that makes the recorded address
the first one, and that a fetch fault leaves the rest as it was are the spec's own decisions D12, D16, D14 (log
entries 10, 14, 12). -/
def Obligations.MemoryOutOfRangeIsRaised : Prop :=
  (∀ (s : State) (a : Nat) (v : Byte), 4096 ≤ a → s.memRead a = .error a ∧ s.memWrite a v = .error a) ∧
  (∀ s : State, s.Running → s.nextMove = .cycle → 4095 ≤ s.pc.toNat →
    step s = .next { s with
      agenda := s.agenda.tail
      status := .faulted
        { kind := .memoryOutOfRange (if 4096 ≤ s.pc.toNat then s.pc.toNat else s.pc.toNat + 1), pc := s.pc } }) ∧
  (∀ (i : Instr) (s : State), 0 < i.dataBytes → 4096 < s.I.toNat + i.dataBytes →
    ∃ t, exec i s = .next t ∧ t.status = .faulted { kind := .memoryOutOfRange s.firstBad, pc := s.pc })

/-- Only `Running` admits a cycle or a tick, and no step but a load leaves a fault (10_state.md section 9, D14; log
entry 12). -/
def Obligations.FaultIsTerminalUntilALoad : Prop :=
  ∀ (s : State) (r : FaultRecord), s.status = .faulted r →
    (s.nextMove = .cycle ∨ s.nextMove = .tick → step s = .fault (.halted r)) ∧
    (∀ t, step s = .next t → t.status = .faulted r ∨ (t.Running ∧ ∃ bytes, s.nextMove = .load bytes))

/-- R230: `Tick` decrements both timers, each clamped at zero, changes nothing else, and is taken only while
`Running`. -/
def Obligations.TickCountsBothTimersDown : Prop :=
  ∀ s : State, s.nextMove = .tick →
    (s.Running → ∃ t, step s = .next t ∧ t = { s with agenda := s.agenda.tail, DT := t.DT, ST := t.ST } ∧
      t.DT.toNat = s.DT.toNat - 1 ∧ t.ST.toNat = s.ST.toNat - 1) ∧
    (∀ r, s.status = .faulted r → ∀ t, step s ≠ .next t)

/-- The timer law (60_exceptions.md section 3): after `n` ticks a timer that held `d` holds `max(d - n, 0)`. -/
def Obligations.TimersReachZeroAndStay : Prop :=
  ∀ (n : Nat) (s : State),
    (State.tick^[n] s).DT.toNat = s.DT.toNat - n ∧ (State.tick^[n] s).ST.toNat = s.ST.toNat - n

/-- `TakeFrame` returns a copy of the framebuffer and clears the draw-flag, or nothing when it is clear; it writes only
the draw-flag (43_display.md section 3). That it is answered in a faulted block too, and that what was returned is
recorded, are the model's choices (log entries 12, 24, DESIGN CHOICE). -/
def Obligations.TakeFrameHandsOverTheGrid : Prop :=
  ∀ s : State, s.nextMove = .takeFrame →
    (s.draw = true →
      step s = .next { s with agenda := s.agenda.tail, draw := false, reply := .frame s.fb }) ∧
    (s.draw = false → step s = .next { s with agenda := s.agenda.tail, reply := .noFrame })

/-- The size check of `Load` (70_reset_and_hazards.md section 1): `n > 4096 - PROGRAM_START` is refused with nothing
else changed (log entry 23), and any other image is accepted and starts a run. -/
def Obligations.LoadChecksTheSize : Prop :=
  ∀ (s : State) (bytes : List Byte), s.nextMove = .load bytes →
    (4096 - s.params.programStart.toNat < bytes.length →
      step s = .next { s with agenda := s.agenda.tail, reply := .loadTooLarge }) ∧
    (bytes.length ≤ 4096 - s.params.programStart.toNat →
      ∃ t, step s = .next t ∧ t.reply = .loadOk ∧ t.Running)

/-- R59: after a successful load every byte is the program's from `PROGRAM_START` on, else the font's in its 80
bytes, else 0. -/
def Obligations.LoadLaysTheImage : Prop :=
  ∀ (s : State) (bytes : List Byte), s.nextMove = .load bytes →
    bytes.length ≤ 4096 - s.params.programStart.toNat →
    ∃ t, step s = .next t ∧ ∀ a < 4096, t.memRead a = .ok (
      if h : s.params.programStart.toNat ≤ a ∧ a - s.params.programStart.toNat < bytes.length then
        bytes[a - s.params.programStart.toNat]'h.2
      else if h : a < 80 then s.params.font[a] else 0)

/-- A successful load resets every register (70_reset_and_hazards.md section 1; 10_state.md section 10). `I`, the
framebuffer and the draw-flag are 0 by the spec's own decision D17 (log entry 15); that the numbering of the free
values and the host's moves go on is the model's (log entry 23). -/
def Obligations.LoadResetsTheRegisters : Prop :=
  ∀ (s : State) (bytes : List Byte), s.nextMove = .load bytes →
    bytes.length ≤ 4096 - s.params.programStart.toNat →
    ∃ t, step s = .next t ∧ (∀ r, t.reg r = 0) ∧ t.I = 0 ∧ t.pc.toNat = s.params.programStart.toNat ∧
      (∀ j : Fin 16, t.stack[j] = 0) ∧ t.sp = 0 ∧ t.DT = 0 ∧ t.ST = 0 ∧ (∀ x y, Frame.cell t.fb x y = false) ∧
      t.draw = false ∧ t.Running ∧ t.params = s.params ∧ t.agenda = s.agenda.tail

/-- The reset state (10_state.md section 10). The font's bytes and 0x200 are the defaults of R6 (log entries 1, 2);
`I`, the framebuffer and the draw-flag are 0 by the spec's own decision D17 (log entry 15). -/
def Obligations.ResetState : Prop :=
  (∀ r, State.reset.reg r = 0) ∧ State.reset.I = 0 ∧
  State.reset.pc.toNat = State.reset.params.programStart.toNat ∧ State.reset.pc = 0x200 ∧
  (∀ j : Fin 16, State.reset.stack[j] = 0) ∧ State.reset.sp = 0 ∧ State.reset.DT = 0 ∧ State.reset.ST = 0 ∧
  (∀ x y, Frame.cell State.reset.fb x y = false) ∧ State.reset.draw = false ∧ State.reset.Running ∧
  (∀ a, State.reset.byteAt a = if h : a < 80 then Config.defaultFont[a] else 0)

/-! ## Memory (20_memory.md) -/

/-- R52, R53: in range, `MemRead` returns the byte and `MemWrite` sets it and changes only it; out of range, both
raise with the address. -/
def Obligations.MemoryReadsAndWritesOneByte : Prop :=
  ∀ (s : State) (a : Nat) (v : Byte),
    (a ≤ 4095 → s.memRead a = .ok (s.byteAt a) ∧
      ∃ t, s.memWrite a v = .ok t ∧ t = { s with mem := t.mem } ∧ t.memRead a = .ok v ∧
        ∀ b, b ≠ a → t.byteAt b = s.byteAt b) ∧
    (4095 < a → s.memRead a = .error a ∧ s.memWrite a v = .error a)

/-- Instruction-fetch coherence (20_memory.md section 6): after a store by `FX33` or `FX55`, wherever its bytes lie, a
fetch from any `pc` reads the bytes stored, and where none was stored the bytes as they were. It is said of every state
whose two bytes at `pc` are still those the store left, the state right after the store (`pc + 2`) among them, so it
covers every later fetch up to another write there. -/
def Obligations.FetchSeesTheStoreBefore : Prop :=
  ∀ (i : Instr) (s : State), (∃ x, i = .ldBVx x) ∨ (∃ x, i = .storeRegs x) → s.DataInRange i.dataBytes →
    ∃ t, exec i s = .next t ∧ t.pc = s.pc + 2 ∧
      ∀ u : State, u.pc.toNat ≤ 4094 → u.byteAt u.pc.toNat = t.byteAt u.pc.toNat →
        u.byteAt (u.pc.toNat + 1) = t.byteAt (u.pc.toNat + 1) →
        ∃ w, u.fetch = .ok w ∧ w.toNat =
          256 * (s.byteAfterStore i u.pc.toNat).toNat + (s.byteAfterStore i (u.pc.toNat + 1)).toNat

/-- Whole machine: while the block goes on running, only `FX33` and `FX55` change a byte of memory, and only the
bytes they store from `I` on (20_memory.md section 5). -/
def Obligations.OnlyStoresWriteMemory : Prop :=
  ∀ (i : Instr) (s t : State), exec i s = .next t → t.Running → ∀ a, t.byteAt a ≠ s.byteAt a →
    ((∃ x, i = .ldBVx x) ∨ ∃ x, i = .storeRegs x) ∧ s.I.toNat ≤ a ∧ a < s.I.toNat + i.dataBytes

/-! ## Control transfer and skips (40_flow.md) -/

/-- R111, R224: `00EE` pops the return address into `pc`, the slots as they were; with none held it raises
`StackUnderflow` before it writes anything. -/
def Obligations.ReturnPopsTheAddress : Prop :=
  SelectedBy 0x000E 0xF00F (fun _ => .ret) ∧
  ∀ s : State,
    (s.sp.val = 0 → ∃ t, exec .ret s = .next t ∧ RaisedOnly s t .stackUnderflow) ∧
    (0 < s.sp.val → ∃ t, exec .ret s = .next t ∧ t = { s with sp := t.sp, pc := t.pc } ∧ KeepsBytes s t ∧
      t.sp.val = s.sp.val - 1 ∧ s.stack[s.sp.val - 1]? = some t.pc)

/-- R112: `1NNN` sets `pc` to the address. -/
def Obligations.JumpSetsPc : Prop :=
  SelectedBy 0x1000 0xF000 (fun w => .jp (fieldNNN w)) ∧
  ∀ (nnn : Addr) (s : State), ∃ t, exec (.jp nnn) s = .next t ∧ t = { s with pc := t.pc } ∧ KeepsBytes s t ∧
    t.pc.toNat = nnn.toNat

/-- R113, R223: `2NNN` stores `pc + 2` in the next free slot, counts it and jumps; with sixteen held it raises
`StackOverflow` before it writes anything. -/
def Obligations.CallPushesAndJumps : Prop :=
  SelectedBy 0x2000 0xF000 (fun w => .call (fieldNNN w)) ∧
  ∀ (nnn : Addr) (s : State),
    (s.sp.val = 16 → ∃ t, exec (.call nnn) s = .next t ∧ RaisedOnly s t .stackOverflow) ∧
    (s.sp.val < 16 → ∃ t, exec (.call nnn) s = .next t ∧
      t = { s with stack := t.stack, sp := t.sp, pc := t.pc } ∧ KeepsBytes s t ∧ t.sp.val = s.sp.val + 1 ∧
      t.pc.toNat = nnn.toNat ∧ t.stack[s.sp.val]? = some (s.pc + 2) ∧
      ∀ j, j ≠ s.sp.val → t.stack[j]? = s.stack[j]?)

/-- The round trip (40_flow.md section 3): a call and then, after any code that leaves `sp` as the call left it and
the slot the call wrote as it wrote it, a return give `pc + 2` and the `sp` from before the call. Code that calls deeper
and returns is such code (HeldAddressesAreKept; log entry 28). -/
def Obligations.CallThenReturnComesBack : Prop :=
  ∀ (nnn : Addr) (s : State), s.sp.val < 16 →
    ∃ t, exec (.call nnn) s = .next t ∧
      ∀ u : State, u.stack[s.sp.val]? = t.stack[s.sp.val]? → u.sp = t.sp →
        ∃ v, exec .ret u = .next v ∧ v.pc = s.pc + 2 ∧ v.sp = s.sp

/-- R114, R115: the immediate skips go to `pc + 4` when the register equals (differs from) the byte, else to
`pc + 2`, and change nothing else. -/
def Obligations.ImmediateSkips : Prop :=
  SelectedBy 0x3000 0xF000 (fun w => .seImm (fieldX w) (fieldNN w)) ∧
  SelectedBy 0x4000 0xF000 (fun w => .sneImm (fieldX w) (fieldNN w)) ∧
  ∀ (x : Nibble) (nn : Byte) (s : State),
    (∃ t, exec (.seImm x nn) s = .next t ∧ t = { s with pc := t.pc } ∧ KeepsBytes s t ∧
      (s.reg x = nn → t.pc = s.pc + 4) ∧ (s.reg x ≠ nn → t.pc = s.pc + 2)) ∧
    (∃ t, exec (.sneImm x nn) s = .next t ∧ t = { s with pc := t.pc } ∧ KeepsBytes s t ∧
      (s.reg x ≠ nn → t.pc = s.pc + 4) ∧ (s.reg x = nn → t.pc = s.pc + 2))

/-- `5XY0`, `9XY0`: the register skips (40_flow.md section 2). That `N` is ignored in their words is the spec's own
decision D25 (log entry 20, DESIGN CHOICE). -/
def Obligations.RegisterSkips : Prop :=
  SelectedBy 0x5000 0xF000 (fun w => .seReg (fieldX w) (fieldY w)) ∧
  SelectedBy 0x9000 0xF000 (fun w => .sneReg (fieldX w) (fieldY w)) ∧
  ∀ (x y : Nibble) (s : State),
    (∃ t, exec (.seReg x y) s = .next t ∧ t = { s with pc := t.pc } ∧ KeepsBytes s t ∧
      (s.reg x = s.reg y → t.pc = s.pc + 4) ∧ (s.reg x ≠ s.reg y → t.pc = s.pc + 2)) ∧
    (∃ t, exec (.sneReg x y) s = .next t ∧ t = { s with pc := t.pc } ∧ KeepsBytes s t ∧
      (s.reg x ≠ s.reg y → t.pc = s.pc + 4) ∧ (s.reg x = s.reg y → t.pc = s.pc + 2))

/-- `BNNN` goes to the exact sum of `V[0]` and the address, whatever bits 11..8 hold (40_flow.md section 2; the exact
sum is the spec's own decision D12, log entry 10). -/
def Obligations.ComputedJumpIsExact : Prop :=
  SelectedBy 0xB000 0xF000 (fun w => .jpV0 (fieldNNN w)) ∧
  ∀ (nnn : Addr) (s : State), ∃ t, exec (.jpV0 nnn) s = .next t ∧ t = { s with pc := t.pc } ∧ KeepsBytes s t ∧
    t.pc.toNat = (s.reg 0).toNat + nnn.toNat

/-- Whole machine: an instruction fetched by a cycle that goes on running leaves `pc` at the exact `pc + 2`, unless it
is a transfer, a skip or the key poll (10_state.md section 4). -/
def Obligations.PcAdvancesByTwoUnlessItIsSet : Prop :=
  ∀ (i : Instr) (s t : State), exec i s = .next t → t.Running → i.setsPc = false → s.pc.toNat ≤ 4094 →
    t.pc.toNat = s.pc.toNat + 2

/-! ## Register loads and the ALU (41_alu.md) -/

/-- R131, R132: `6XNN` loads the byte, `7XNN` adds it modulo 256 and writes no flag. -/
def Obligations.LoadAndAddImmediate : Prop :=
  SelectedBy 0x6000 0xF000 (fun w => .ldImm (fieldX w) (fieldNN w)) ∧
  SelectedBy 0x7000 0xF000 (fun w => .addImm (fieldX w) (fieldNN w)) ∧
  ∀ (x : Nibble) (nn : Byte) (s : State),
    (∃ t, exec (.ldImm x nn) s = .next t ∧ RegWritten s t x nn) ∧
    (∃ t v, exec (.addImm x nn) s = .next t ∧ RegWritten s t x v ∧
      v.toNat = ((s.reg x).toNat + nn.toNat) % 256)

/-- R133, R134, R135, R136, R144: copy, or, and, exclusive or: `V[X]` alone is written, VF is not (unless it is `V[X]`). -/
def Obligations.CopyAndLogicWriteNoFlag : Prop :=
  SelectedBy 0x8000 0xF00F (fun w => .ldReg (fieldX w) (fieldY w)) ∧
  SelectedBy 0x8001 0xF00F (fun w => .orReg (fieldX w) (fieldY w)) ∧
  SelectedBy 0x8002 0xF00F (fun w => .andReg (fieldX w) (fieldY w)) ∧
  SelectedBy 0x8003 0xF00F (fun w => .xorReg (fieldX w) (fieldY w)) ∧
  ∀ (x y : Nibble) (s : State),
    (∃ t, exec (.ldReg x y) s = .next t ∧ RegWritten s t x (s.reg y)) ∧
    (∃ t, exec (.orReg x y) s = .next t ∧ RegWritten s t x (s.reg x ||| s.reg y)) ∧
    (∃ t, exec (.andReg x y) s = .next t ∧ RegWritten s t x (s.reg x &&& s.reg y)) ∧
    (∃ t, exec (.xorReg x y) s = .next t ∧ RegWritten s t x (s.reg x ^^^ s.reg y))

/-- `8XY4`, `8XY5`, `8XY7`: the flag is the carry, or not borrow, of the old registers; the result, modulo 256, reads
the registers as the flag's write left them, whichever of `X`, `Y` is 0xF (41_alu.md section 2; the order is the
spec's own decision D4, log entry 4). -/
def Obligations.AddAndSubtractWithFlag : Prop :=
  SelectedBy 0x8004 0xF00F (fun w => .addReg (fieldX w) (fieldY w)) ∧
  SelectedBy 0x8005 0xF00F (fun w => .subReg (fieldX w) (fieldY w)) ∧
  SelectedBy 0x8007 0xF00F (fun w => .subnReg (fieldX w) (fieldY w)) ∧
  ∀ (x y : Nibble) (s : State),
    (∃ t, exec (.addReg x y) s = .next t ∧
      FlaggedWrite s t x y (if 255 < (s.reg x).toNat + (s.reg y).toNat then 1 else 0)
        fun a b => (a + b) % 256) ∧
    (∃ t, exec (.subReg x y) s = .next t ∧
      FlaggedWrite s t x y (if (s.reg x).toNat < (s.reg y).toNat then 0 else 1)
        fun a b => (a + 256 - b) % 256) ∧
    (∃ t, exec (.subnReg x y) s = .next t ∧
      FlaggedWrite s t x y (if (s.reg y).toNat < (s.reg x).toNat then 0 else 1)
        fun a b => (b + 256 - a) % 256)

/-- `8XY6`, `8XYE`: `V[0xF]` receives the bit shifted out and `V[X]` is shifted by one; with `X = F` the shift reads
the flag just written; `V[Y]` is not read (41_alu.md section 2; the order is the spec's own decision D4, log entry
4). -/
def Obligations.ShiftsByOne : Prop :=
  SelectedBy 0x8006 0xF00F (fun w => .shr (fieldX w) (fieldY w)) ∧
  SelectedBy 0x800E 0xF00F (fun w => .shl (fieldX w) (fieldY w)) ∧
  ∀ (x y : Nibble) (s : State),
    (∃ t, exec (.shr x y) s = .next t ∧
      FlaggedWrite s t x y (if (s.reg x).getLsbD 0 then 1 else 0) (fun a _ => a / 2) ∧
      (x = 0xF → t.reg 0xF = 0)) ∧
    (∃ t, exec (.shl x y) s = .next t ∧
      FlaggedWrite s t x y (if (s.reg x).getLsbD 7 then 1 else 0) (fun a _ => a * 2 % 256) ∧
      (x = 0xF → t.reg 0xF = 0 ∨ t.reg 0xF = 2))

/-- `CXNN`: a byte `r` is drawn, also when `NN = 0`, and `V[X]` receives `r & NN`; the byte is a free value, so this
holds whatever it is (41_alu.md section 4; log entry 17). -/
def Obligations.RandomByteUnderMask : Prop :=
  SelectedBy 0xC000 0xF000 (fun w => .rnd (fieldX w) (fieldNN w)) ∧
  ∀ (x : Nibble) (nn : Byte) (s : State), ∃ t r, exec (.rnd x nn) s = .next t ∧
    t = { s with V := t.V, pc := s.pc + 2, rng := s.rng + 1 } ∧ KeepsBytes s t ∧ r = Config.randomByte s.rng ∧
    (∀ k < 8, (t.reg x).getLsbD k = (r.getLsbD k && nn.getLsbD k)) ∧ ∀ q, q ≠ x → t.reg q = s.reg q

/-- Whole family: no instruction of 41_alu.md raises an exception, changes `I`, the stack, the timers, the framebuffer
or memory, or depends on what memory holds; each ends with `pc + 2` (41_alu.md section 1). -/
def Obligations.AluTouchesRegistersOnly : Prop :=
  ∀ (i : Instr) (s : State), i.isAlu = true →
    ∃ t, exec i s = .next t ∧ t = { s with V := t.V, pc := s.pc + 2, rng := t.rng } ∧ KeepsBytes s t ∧
      ∀ m, exec i { s with mem := m } = .next { t with mem := m }

/-- Whole machine: while the block goes on running, an instruction changes only the general registers it names as its
destination, or as its flag where it writes one (10_state.md section 2). -/
def Obligations.OnlyNamedRegistersChange : Prop :=
  ∀ (i : Instr) (s t : State) (r : Nibble), exec i s = .next t → t.Running → t.reg r ≠ s.reg r → i.writesReg r

/-! ## Index register and memory transfers (42_index_memory.md) -/

/-- R161: `ANNN` loads the index. -/
def Obligations.LoadIndex : Prop :=
  SelectedBy 0xA000 0xF000 (fun w => .ldI (fieldNNN w)) ∧
  ∀ (nnn : Addr) (s : State), ∃ t, exec (.ldI nnn) s = .next t ∧ t = { s with I := t.I, pc := s.pc + 2 } ∧
    KeepsBytes s t ∧ t.I.toNat = nnn.toNat

/-- `FX1E` adds the register to the index modulo 65536 and writes no flag (42_index_memory.md section 2; the 16-bit
wrap is the spec's own decision D11, log entry 10). -/
def Obligations.AddToIndex : Prop :=
  SelectedBy 0xF01E 0xF0FF (fun w => .addIVx (fieldX w)) ∧
  ∀ (x : Nibble) (s : State), ∃ t, exec (.addIVx x) s = .next t ∧ t = { s with I := t.I, pc := s.pc + 2 } ∧
    KeepsBytes s t ∧ t.I.toNat = (s.I.toNat + (s.reg x).toNat) % 65536

/-- R163: `FX29` points the index at five times the whole byte. -/
def Obligations.PointIndexAtGlyph : Prop :=
  SelectedBy 0xF029 0xF0FF (fun w => .ldFVx (fieldX w)) ∧
  ∀ (x : Nibble) (s : State), ∃ t, exec (.ldFVx x) s = .next t ∧ t = { s with I := t.I, pc := s.pc + 2 } ∧
    KeepsBytes s t ∧ t.I.toNat = (s.reg x).toNat * 5

/-- R164: `FX33` writes hundreds, tens, units of `V[X]` at `I`, `I + 1`, `I + 2`, changes no other byte and not `I`;
past the end of memory it raises with the first address out of range. -/
def Obligations.StoreDecimalDigits : Prop :=
  SelectedBy 0xF033 0xF0FF (fun w => .ldBVx (fieldX w)) ∧
  ∀ (x : Nibble) (s : State),
    (s.DataInRange 3 → ∃ t, exec (.ldBVx x) s = .next t ∧ t = { s with mem := t.mem, pc := s.pc + 2 } ∧
      (t.byteAt s.I.toNat).toNat = (s.reg x).toNat / 100 ∧
      (t.byteAt (s.I.toNat + 1)).toNat = (s.reg x).toNat / 10 % 10 ∧
      (t.byteAt (s.I.toNat + 2)).toNat = (s.reg x).toNat % 10 ∧
      ∀ a, ¬(s.I.toNat ≤ a ∧ a < s.I.toNat + 3) → t.byteAt a = s.byteAt a) ∧
    (¬s.DataInRange 3 → ∃ t, exec (.ldBVx x) s = .next t ∧
      t.status = .faulted { kind := .memoryOutOfRange s.firstBad, pc := s.pc })

/-- R165: `FX55` writes `V[0] .. V[X]` at `I .. I + X`, changes no other byte and not `I`; past the end of memory it
raises with the first address out of range. -/
def Obligations.StoreRegisters : Prop :=
  SelectedBy 0xF055 0xF0FF (fun w => .storeRegs (fieldX w)) ∧
  ∀ (x : Nibble) (s : State),
    (s.DataInRange (x.toNat + 1) → ∃ t, exec (.storeRegs x) s = .next t ∧
      t = { s with mem := t.mem, pc := s.pc + 2 } ∧
      (∀ k : Nibble, k.toNat ≤ x.toNat → t.byteAt (s.I.toNat + k.toNat) = s.reg k) ∧
      ∀ a, ¬(s.I.toNat ≤ a ∧ a ≤ s.I.toNat + x.toNat) → t.byteAt a = s.byteAt a) ∧
    (¬s.DataInRange (x.toNat + 1) → ∃ t, exec (.storeRegs x) s = .next t ∧
      t.status = .faulted { kind := .memoryOutOfRange s.firstBad, pc := s.pc })

/-- R166: `FX65` loads `V[0] .. V[X]` from `I .. I + X` and changes no other register, no byte and not `I`; past the
end of memory it raises with the first address out of range. -/
def Obligations.LoadRegisters : Prop :=
  SelectedBy 0xF065 0xF0FF (fun w => .loadRegs (fieldX w)) ∧
  ∀ (x : Nibble) (s : State),
    (s.DataInRange (x.toNat + 1) → ∃ t, exec (.loadRegs x) s = .next t ∧
      t = { s with V := t.V, pc := s.pc + 2 } ∧ KeepsBytes s t ∧
      (∀ k : Nibble, k.toNat ≤ x.toNat → t.reg k = s.byteAt (s.I.toNat + k.toNat)) ∧
      ∀ k : Nibble, x.toNat < k.toNat → t.reg k = s.reg k) ∧
    (¬s.DataInRange (x.toNat + 1) → ∃ t, exec (.loadRegs x) s = .next t ∧
      t.status = .faulted { kind := .memoryOutOfRange s.firstBad, pc := s.pc })

/-- Whole machine: while the block goes on running, only `ANNN`, `FX1E` and `FX29` change `I` (10_state.md section
3). -/
def Obligations.OnlyIndexInstructionsChangeI : Prop :=
  ∀ (i : Instr) (s t : State), exec i s = .next t → t.Running → t.I ≠ s.I →
    (∃ a, i = .ldI a) ∨ (∃ x, i = .addIVx x) ∨ ∃ x, i = .ldFVx x

/-! ## Display (43_display.md) -/

/-- R180: `00E0` clears every cell and sets the draw-flag, also when the screen was clear. -/
def Obligations.ClearScreen : Prop :=
  SelectedBy 0x0000 0xF00F (fun _ => .cls) ∧
  ∀ s : State, ∃ t, exec .cls s = .next t ∧ t = { s with fb := t.fb, draw := true, pc := s.pc + 2 } ∧
    KeepsBytes s t ∧ ∀ x y, Frame.cell t.fb x y = false

/-- `DXYN`: exactly the cells a set sprite bit covers are toggled, each pixel wrapped on both axes, and VF is 1 exactly
when one of them was 1 (43_display.md sections 1 and 2; operand latching D5, bit order D3: the spec's own decisions, log
entries 3, 5). Past the end of memory it raises with the first address out of range. -/
def Obligations.DrawXorsTheSprite : Prop :=
  SelectedBy 0xD000 0xF000 (fun w => .drw (fieldX w) (fieldY w) (fieldN w)) ∧
  ∀ (x y n : Nibble) (s : State),
    (s.DataInRange n.toNat ∨ n = 0 → ∃ t, exec (.drw x y n) s = .next t ∧
      t = { s with V := t.V, fb := t.fb, draw := true, pc := s.pc + 2 } ∧ KeepsBytes s t ∧
      (∀ cx < 64, ∀ cy < 32,
        (s.Covers (s.reg x).toNat (s.reg y).toNat n.toNat cx cy →
          Frame.cell t.fb cx cy = !Frame.cell s.fb cx cy) ∧
        (¬s.Covers (s.reg x).toNat (s.reg y).toNat n.toNat cx cy →
          Frame.cell t.fb cx cy = Frame.cell s.fb cx cy)) ∧
      ((∃ cx < 64, ∃ cy < 32, s.Covers (s.reg x).toNat (s.reg y).toNat n.toNat cx cy ∧
          Frame.cell s.fb cx cy = true) → t.reg 0xF = 1) ∧
      ((¬∃ cx < 64, ∃ cy < 32, s.Covers (s.reg x).toNat (s.reg y).toNat n.toNat cx cy ∧
          Frame.cell s.fb cx cy = true) → t.reg 0xF = 0) ∧
      ∀ r, r ≠ 0xF → t.reg r = s.reg r) ∧
    (¬s.DataInRange n.toNat → n ≠ 0 → ∃ t, exec (.drw x y n) s = .next t ∧
      t.status = .faulted { kind := .memoryOutOfRange s.firstBad, pc := s.pc })

/-- The collision law (43_display.md section 2): the same sprite drawn again at the same coordinates restores the
framebuffer, and the second draw's VF is 1 exactly when some covered cell was 0 before the first; so it is 1 for a
sprite with a set bit drawn on cells that were all 0, the case the source speaks of (log entry 26). `X`, `Y` other than
F, so that the first draw's flag is no coordinate of the second. -/
def Obligations.DrawingTwiceRestores : Prop :=
  ∀ (x y n : Nibble) (s : State), x ≠ 0xF → y ≠ 0xF → s.DataInRange n.toNat ∨ n = 0 →
    ∃ t u, exec (.drw x y n) s = .next t ∧ exec (.drw x y n) t = .next u ∧ u.fb = s.fb ∧
      ((∃ cx < 64, ∃ cy < 32, s.Covers (s.reg x).toNat (s.reg y).toNat n.toNat cx cy ∧
          Frame.cell s.fb cx cy = false) → u.reg 0xF = 1) ∧
      ((¬∃ cx < 64, ∃ cy < 32, s.Covers (s.reg x).toNat (s.reg y).toNat n.toNat cx cy ∧
          Frame.cell s.fb cx cy = false) → u.reg 0xF = 0)

/-- R31's and R32's instruction side, whole machine: while the block goes on running, only `00E0` and `DXYN` change
the framebuffer, they set the draw-flag, and no other instruction changes it (10_state.md section 7). -/
def Obligations.OnlyClsAndDrwPaint : Prop :=
  ∀ (i : Instr) (s t : State), exec i s = .next t → t.Running →
    (i = .cls ∨ (∃ x y n, i = .drw x y n) → t.draw = true) ∧
    (i ≠ .cls → (∀ x y n, i ≠ .drw x y n) → t.fb = s.fb ∧ t.draw = s.draw)

/-! ## Keys and timers (44_timers_input.md) -/

/-- `EX9E`, `EXA1`: a value above 15 raises `KeyIndexOutOfRange` with nothing changed (the spec's own decision D8, log
entry 8); else the one answer for key `V[X]`, a free value (log entry 18), decides between `pc + 4` and `pc + 2`, the
two instructions oppositely (44_timers_input.md section 2). -/
def Obligations.KeySkips : Prop :=
  SelectedBy 0xE09E 0xF0FF (fun w => .skp (fieldX w)) ∧ SelectedBy 0xE0A1 0xF0FF (fun w => .sknp (fieldX w)) ∧
  ∀ (x : Nibble) (s : State),
    (15 < (s.reg x).toNat →
      (∃ t, exec (.skp x) s = .next t ∧ RaisedOnly s t (.keyIndexOutOfRange (s.reg x))) ∧
      ∃ t, exec (.sknp x) s = .next t ∧ RaisedOnly s t (.keyIndexOutOfRange (s.reg x))) ∧
    ((s.reg x).toNat ≤ 15 → ∃ pressed : Bool, pressed = Config.keyAnswer s.draws ((s.reg x).setWidth 4) ∧
      (∃ t, exec (.skp x) s = .next t ∧ t = { s with pc := t.pc, draws := s.draws + 1 } ∧ KeepsBytes s t ∧
        t.pc = if pressed then s.pc + 4 else s.pc + 2) ∧
      ∃ t, exec (.sknp x) s = .next t ∧ t = { s with pc := t.pc, draws := s.draws + 1 } ∧ KeepsBytes s t ∧
        t.pc = if pressed then s.pc + 2 else s.pc + 4)

/-- `FX0A` scans the sixteen keys once: with a key pressed `V[X]` receives the index of one of those pressed and `pc`
advances; with none, nothing but `pc` changes in mode `poll`, and nothing at all in mode `block` (44_timers_input.md
section 2; modes D6, choice D7: log entries 6, 7). The answers are free values (log entry 18). -/
def Obligations.KeyPoll : Prop :=
  SelectedBy 0xF00A 0xF0FF (fun w => .ldVxK (fieldX w)) ∧
  ∀ (x : Nibble) (s : State), ∃ t, exec (.ldVxK x) s = .next t ∧
    t = { s with V := t.V, pc := t.pc, draws := s.draws + 1 } ∧ KeepsBytes s t ∧
    (∀ r, r ≠ x → t.reg r = s.reg r) ∧
    ((∃ k, Config.keyAnswer s.draws k = true) → t.pc = s.pc + 2 ∧
      ∃ k, Config.keyAnswer s.draws k = true ∧ (t.reg x).toNat = k.toNat) ∧
    ((∀ k, Config.keyAnswer s.draws k = false) → t.reg x = s.reg x ∧
      t.pc = if s.params.fx0aMode = .block then s.pc else s.pc + 2)

/-- R204, R206, R207: `FX07` reads the delay timer, `FX15` sets it, `FX18` sets the sound timer, after which
`SoundActive` is on exactly when the value was not 0. -/
def Obligations.TimerTransfers : Prop :=
  SelectedBy 0xF007 0xF0FF (fun w => .ldVxDt (fieldX w)) ∧
  SelectedBy 0xF015 0xF0FF (fun w => .ldDtVx (fieldX w)) ∧
  SelectedBy 0xF018 0xF0FF (fun w => .ldStVx (fieldX w)) ∧
  ∀ (x : Nibble) (s : State),
    (∃ t, exec (.ldVxDt x) s = .next t ∧ RegWritten s t x s.DT) ∧
    (∃ t, exec (.ldDtVx x) s = .next t ∧ t = { s with DT := s.reg x, pc := s.pc + 2 } ∧ KeepsBytes s t) ∧
    (∃ t, exec (.ldStVx x) s = .next t ∧ t = { s with ST := s.reg x, pc := s.pc + 2 } ∧ KeepsBytes s t ∧
      (t.soundActive = true ↔ s.reg x ≠ 0))

/-- Whole machine, over steps: while the block goes on running, a step raises `DT` only if it runs `FX15` or is a
load, and lowers it otherwise by at most 1; the same for `ST` with `FX18` (70_reset_and_hazards.md section 3,
10_state.md section 6). -/
def Obligations.TimersChangeOnlyByTickOrTransfer : Prop :=
  ∀ s t : State, step s = .next t → t.Running → (∀ bytes, s.nextMove ≠ .load bytes) →
    (t.DT = s.DT ∨ (s.nextMove = .tick ∧ t.DT.toNat = s.DT.toNat - 1) ∨
      ∃ w x, s.nextMove = .cycle ∧ s.fetch = .ok w ∧ decode w = .instr (.ldDtVx x)) ∧
    (t.ST = s.ST ∨ (s.nextMove = .tick ∧ t.ST.toNat = s.ST.toNat - 1) ∨
      ∃ w x, s.nextMove = .cycle ∧ s.fetch = .ok w ∧ decode w = .instr (.ldStVx x))

/-! ## The whole machine -/

/-- Whole machine: while the block goes on running, only `2NNN` writes a stack slot and only `2NNN` and `00EE` move
`sp` (10_state.md section 5). -/
def Obligations.OnlyCallAndReturnUseTheStack : Prop :=
  ∀ (i : Instr) (s t : State), exec i s = .next t → t.Running →
    (t.stack ≠ s.stack → ∃ a, i = .call a) ∧ (t.sp ≠ s.sp → i = .ret ∨ ∃ a, i = .call a)

/-- Every instruction answers a next state from every state, and one that starts running goes on running unless one of
the four faults an instruction raises (60_exceptions.md section 1; an unknown word's is the decoder's) is raised at its
own `pc`: `00EE` with none held, `2NNN` with sixteen, an instruction with data bytes that reach past the end of memory,
a key query above 15. The first address out of range and the key fault are the spec's own decisions D12, D16, D8 (log
entries 10, 14, 8). -/
def Obligations.EveryInstructionAnswersANextState : Prop :=
  ∀ (i : Instr) (s : State), ∃ t, exec i s = .next t ∧
    (s.Running → t.Running ∨ ∃ k, t.status = .faulted { kind := k, pc := s.pc } ∧
      ((k = .stackUnderflow ∧ i = .ret ∧ s.sp.val = 0) ∨
        (k = .stackOverflow ∧ (∃ a, i = .call a) ∧ s.sp.val = 16) ∨
        (k = .memoryOutOfRange s.firstBad ∧ 0 < i.dataBytes ∧ 4096 < s.I.toNat + i.dataBytes) ∨
        ∃ x, k = .keyIndexOutOfRange (s.reg x) ∧ 15 < (s.reg x).toNat ∧ (i = .skp x ∨ i = .sknp x)))

/-- The implementation parameters are fixed for a machine: no step changes them (00_scope.md section 4). -/
def Obligations.NoStepChangesTheParameters : Prop :=
  ∀ s t : State, step s = .next t → t.params = s.params

/-- The invariant every step keeps: memory in canonical form, and while the block runs `pc` is at most 0x10FE and every
return address at most 0x1000, so that no sum of 10_state.md section 4 wraps. -/
def Obligations.EveryStepKeepsTheInvariant : Prop :=
  ∀ s t : State, s.Inv → step s = .next t → t.Inv

/-- The invariant holds after reset, whatever the parameters are. -/
def Obligations.ResetMeetsTheInvariant : Prop :=
  State.reset.Inv ∧ ∀ p, (State.resetWith p).Inv

/-- Whole machine, over steps: no step but a load changes a return address that is held before it, while the block goes
on running; so code that calls deeper and returns leaves the addresses below as they were (10_state.md section 5). -/
def Obligations.HeldAddressesAreKept : Prop :=
  ∀ s t : State, step s = .next t → t.Running → (∀ bytes, s.nextMove ≠ .load bytes) →
    ∀ j, j < s.sp.val → t.stack[j]? = s.stack[j]?
end

