-- ==== Sys2Proof/Laws/Decode.lean ====
section
/-! SUPPORT. The fields of a word put together from fields, a word put together from its own fields, and the fixed
bits a mask selects (R81, R86). -/

namespace Sys2Proof

/-- A bit of two vectors side by side. -/
theorem getLsbD_append_ite {a b : Nat} (u : BitVec a) (v : BitVec b) (i : Nat) :
    (u ++ v).getLsbD i = if i < b then v.getLsbD i else u.getLsbD (i - b) := by
  rw [BitVec.getLsbD_append]

theorem wordXYN_bit (f x y n : Nibble) (i : Nat) :
    (wordXYN f x y n).getLsbD i =
      if i < 4 then n.getLsbD i else if i < 8 then y.getLsbD (i - 4)
      else if i < 12 then x.getLsbD (i - 8) else f.getLsbD (i - 12) := by
  unfold wordXYN
  rw [getLsbD_append_ite, getLsbD_append_ite, getLsbD_append_ite]
  simp only [Nat.sub_sub]
  split_ifs <;> first | rfl | omega

theorem wordXNN_bit (f x : Nibble) (nn : Byte) (i : Nat) :
    (wordXNN f x nn).getLsbD i =
      if i < 8 then nn.getLsbD i else if i < 12 then x.getLsbD (i - 8) else f.getLsbD (i - 12) := by
  unfold wordXNN
  rw [getLsbD_append_ite, getLsbD_append_ite]
  simp only [Nat.sub_sub]
  split_ifs <;> first | rfl | omega

theorem wordNNN_bit (f : Nibble) (nnn : Addr) (i : Nat) :
    (wordNNN f nnn).getLsbD i = if i < 12 then nnn.getLsbD i else f.getLsbD (i - 12) := by
  unfold wordNNN
  rw [getLsbD_append_ite]

/-! ## The fields of a word put together (R81) -/

@[simp] theorem fieldF_wordXYN (f x y n : Nibble) : fieldF (wordXYN f x y n) = f := by
  ext i hi
  rw [fieldF, ← BitVec.getLsbD_eq_getElem, BitVec.getLsbD_extractLsb', wordXYN_bit]
  split_ifs <;> first | omega | simp [hi]

@[simp] theorem fieldX_wordXYN (f x y n : Nibble) : fieldX (wordXYN f x y n) = x := by
  ext i hi
  rw [fieldX, ← BitVec.getLsbD_eq_getElem, BitVec.getLsbD_extractLsb', wordXYN_bit]
  split_ifs <;> first | omega | simp [hi]

@[simp] theorem fieldY_wordXYN (f x y n : Nibble) : fieldY (wordXYN f x y n) = y := by
  ext i hi
  rw [fieldY, ← BitVec.getLsbD_eq_getElem, BitVec.getLsbD_extractLsb', wordXYN_bit]
  split_ifs <;> first | omega | simp [hi]

@[simp] theorem fieldN_wordXYN (f x y n : Nibble) : fieldN (wordXYN f x y n) = n := by
  ext i hi
  rw [fieldN, ← BitVec.getLsbD_eq_getElem, BitVec.getLsbD_extractLsb', wordXYN_bit]
  split_ifs <;> first | omega | simp [hi]

@[simp] theorem fieldF_wordXNN (f x : Nibble) (nn : Byte) : fieldF (wordXNN f x nn) = f := by
  ext i hi
  rw [fieldF, ← BitVec.getLsbD_eq_getElem, BitVec.getLsbD_extractLsb', wordXNN_bit]
  split_ifs <;> first | omega | simp [hi]

@[simp] theorem fieldX_wordXNN (f x : Nibble) (nn : Byte) : fieldX (wordXNN f x nn) = x := by
  ext i hi
  rw [fieldX, ← BitVec.getLsbD_eq_getElem, BitVec.getLsbD_extractLsb', wordXNN_bit]
  split_ifs <;> first | omega | simp [hi]

@[simp] theorem fieldNN_wordXNN (f x : Nibble) (nn : Byte) : fieldNN (wordXNN f x nn) = nn := by
  ext i hi
  rw [fieldNN, ← BitVec.getLsbD_eq_getElem, BitVec.getLsbD_extractLsb', wordXNN_bit]
  split_ifs <;> first | omega | simp [hi]

@[simp] theorem fieldF_wordNNN (f : Nibble) (nnn : Addr) : fieldF (wordNNN f nnn) = f := by
  ext i hi
  rw [fieldF, ← BitVec.getLsbD_eq_getElem, BitVec.getLsbD_extractLsb', wordNNN_bit]
  split_ifs <;> first | omega | simp [hi]

@[simp] theorem fieldNNN_wordNNN (f : Nibble) (nnn : Addr) : fieldNNN (wordNNN f nnn) = nnn := by
  ext i hi
  rw [fieldNNN, ← BitVec.getLsbD_eq_getElem, BitVec.getLsbD_extractLsb', wordNNN_bit]
  split_ifs <;> first | omega | simp [hi]

/-! ## A word is its fields put together -/

theorem wordXYN_fields (w : Word) : wordXYN (fieldF w) (fieldX w) (fieldY w) (fieldN w) = w := by
  ext i hi
  rw [← BitVec.getLsbD_eq_getElem, wordXYN_bit, ← BitVec.getLsbD_eq_getElem]
  simp only [fieldF, fieldX, fieldY, fieldN, BitVec.getLsbD_extractLsb']
  split_ifs
  · simp [*]
  · rw [show 4 + (i - 4) = i by omega]; simp; omega
  · rw [show 8 + (i - 8) = i by omega]; simp; omega
  · rw [show 12 + (i - 12) = i by omega]; simp; omega

theorem wordXNN_fields (w : Word) : wordXNN (fieldF w) (fieldX w) (fieldNN w) = w := by
  ext i hi
  rw [← BitVec.getLsbD_eq_getElem, wordXNN_bit, ← BitVec.getLsbD_eq_getElem]
  simp only [fieldF, fieldX, fieldNN, BitVec.getLsbD_extractLsb']
  split_ifs
  · simp [*]
  · rw [show 8 + (i - 8) = i by omega]; simp; omega
  · rw [show 12 + (i - 12) = i by omega]; simp; omega

theorem wordNNN_fields (w : Word) : wordNNN (fieldF w) (fieldNNN w) = w := by
  ext i hi
  rw [← BitVec.getLsbD_eq_getElem, wordNNN_bit, ← BitVec.getLsbD_eq_getElem]
  simp only [fieldF, fieldNNN, BitVec.getLsbD_extractLsb']
  split_ifs
  · simp [*]
  · rw [show 12 + (i - 12) = i by omega]; simp; omega

/-! ## The bytes of a word (R55) -/

@[simp] theorem wordOfBytes_bytes (w : Word) : wordOfBytes (highByte w) (lowByte w) = w := by
  ext i hi
  rw [← BitVec.getLsbD_eq_getElem, wordOfBytes, getLsbD_append_ite, ← BitVec.getLsbD_eq_getElem]
  simp only [highByte, lowByte, BitVec.getLsbD_extractLsb']
  split_ifs
  · simp [*]
  · rw [show 8 + (i - 8) = i by omega]; simp; omega

/-- The number a fetched word stands for: its first byte counts 256-fold (R55). -/
theorem wordOfBytes_toNat (hi lo : Byte) : (wordOfBytes hi lo).toNat = 256 * hi.toNat + lo.toNat := by
  have h := lo.isLt
  have : (wordOfBytes hi lo).toNat = hi.toNat <<< 8 ||| lo.toNat := BitVec.toNat_append hi lo
  rw [this, ← Nat.shiftLeft_add_eq_or_of_lt h, Nat.shiftLeft_eq]
  omega

/-! ## The fixed bits (R86) -/

theorem fieldF_and (w m : Word) : fieldF (w &&& m) = fieldF w &&& fieldF m := by simp [fieldF, BitVec.extractLsb'_and]
theorem fieldN_and (w m : Word) : fieldN (w &&& m) = fieldN w &&& fieldN m := by simp [fieldN, BitVec.extractLsb'_and]
theorem fieldNN_and (w m : Word) : fieldNN (w &&& m) = fieldNN w &&& fieldNN m := by
  simp [fieldNN, BitVec.extractLsb'_and]

/-- A mask over a word put together acts field by field. -/
theorem wordXYN_and (f x y n f' x' y' n' : Nibble) :
    wordXYN f x y n &&& wordXYN f' x' y' n' = wordXYN (f &&& f') (x &&& x') (y &&& y') (n &&& n') := by
  ext i hi
  simp only [← BitVec.getLsbD_eq_getElem, BitVec.getLsbD_and, wordXYN_bit]
  split_ifs <;> rfl

theorem wordXNN_and (f x f' x' : Nibble) (nn nn' : Byte) :
    wordXNN f x nn &&& wordXNN f' x' nn' = wordXNN (f &&& f') (x &&& x') (nn &&& nn') := by
  ext i hi
  simp only [← BitVec.getLsbD_eq_getElem, BitVec.getLsbD_and, wordXNN_bit]
  split_ifs <;> rfl

theorem wordNNN_and (f f' : Nibble) (nnn nnn' : Addr) :
    wordNNN f nnn &&& wordNNN f' nnn' = wordNNN (f &&& f') (nnn &&& nnn') := by
  ext i hi
  simp only [← BitVec.getLsbD_eq_getElem, BitVec.getLsbD_and, wordNNN_bit]
  split_ifs <;> rfl

theorem and_nibbleOnes (f : Nibble) : f &&& 15#4 = f := BitVec.and_allOnes

theorem and_byteOnes (b : Byte) : b &&& 255#8 = b := BitVec.and_allOnes

/-- The sub-select fields fixed, the registers free (families 0x8). -/
theorem wordXYN_mask_FN (f x y n : Nibble) : wordXYN f x y n &&& 0xF00F = wordXYN f 0 0 n := by
  rw [show (0xF00F : Word) = wordXYN 0xF 0 0 0xF by decide, wordXYN_and]
  simp [and_nibbleOnes]

/-- The family alone fixed. -/
theorem wordXYN_mask_F (f x y n : Nibble) : wordXYN f x y n &&& 0xF000 = wordXYN f 0 0 0 := by
  rw [show (0xF000 : Word) = wordXYN 0xF 0 0 0 by decide, wordXYN_and]
  simp [and_nibbleOnes]

theorem wordXNN_mask_F (f x : Nibble) (nn : Byte) : wordXNN f x nn &&& 0xF000 = wordXNN f 0 0 := by
  rw [show (0xF000 : Word) = wordXNN 0xF 0 0 by decide, wordXNN_and]
  simp [and_nibbleOnes]

/-- The family and the sub-select byte fixed (families 0xE, 0xF). -/
theorem wordXNN_mask_FNN (f x : Nibble) (nn : Byte) : wordXNN f x nn &&& 0xF0FF = wordXNN f 0 nn := by
  rw [show (0xF0FF : Word) = wordXNN 0xF 0 0xFF by decide, wordXNN_and]
  simp [and_nibbleOnes, and_byteOnes]

theorem wordNNN_mask_F (f : Nibble) (nnn : Addr) : wordNNN f nnn &&& 0xF000 = wordNNN f 0 := by
  rw [show (0xF000 : Word) = wordNNN 0xF 0 by decide, wordNNN_and]
  simp [and_nibbleOnes]

end Sys2Proof
end

