-- ==== Sys2Proof/Laws/Display.lean ====
section
/-! SUPPORT. The cells of the framebuffer after a toggle and after a pixel. -/

namespace Sys2Proof.Machine

open Config

@[simp] theorem Frame.cell_clear (x y : Nat) : Frame.cell Frame.clear x y = false := by
  simp [Frame.cell, Frame.clear]

/-- One cell of a grid set. -/
theorem Frame.getElem_set_cell (f : Frame) {x y cx cy : Nat} (hx : x < 64) (hy : y < 32) (hcx : cx < 64)
    (hcy : cy < 32) (v : Bool) :
    ((f.set y ((f[y]'hy).set x v hx) hy)[cy]'hcy)[cx]'hcx =
      if cx = x ∧ cy = y then v else (f[cy]'hcy)[cx]'hcx := by
  by_cases h1 : y = cy
  · subst h1
    by_cases h2 : x = cx
    · subst h2; simp
    · simp [h2, Ne.symm h2]
  · simp [h1, Ne.symm h1]

/-- A toggle flips the cell at its coordinates, both reduced, and no other. -/
theorem Frame.cell_toggle (f : Frame) (x y cx cy : Nat) :
    Frame.cell (Frame.toggle f x y) cx cy =
      if cx % 64 = x % 64 ∧ cy % 32 = y % 32 then !Frame.cell f x y else Frame.cell f cx cy :=
  Frame.getElem_set_cell f _ _ _ _ _

/-- Two framebuffers agree when each cell of the grid does. -/
theorem Frame.ext_cell {f g : Frame} (h : ∀ x < 64, ∀ y < 32, Frame.cell f x y = Frame.cell g x y) : f = g := by
  ext y hy x hx
  have := h x hx y hy
  simpa [Frame.cell, Nat.mod_eq_of_lt hx, Nat.mod_eq_of_lt hy] using this

/-- One pixel: a set bit toggles its cell and reports whether it was 1; a clear bit does nothing. -/
theorem Canvas.pixel_spec (c : Canvas) (b : Byte) (x0 y col cx cy : Nat) :
    Frame.cell (c.pixel b x0 y col).fb cx cy =
      (if spriteBit b col = true ∧ cx % 64 = (x0 + col) % 64 ∧ cy % 32 = y % 32 then !Frame.cell c.fb cx cy
        else Frame.cell c.fb cx cy) ∧
    (c.pixel b x0 y col).hit = (c.hit || (spriteBit b col && Frame.cell c.fb (x0 + col) y)) := by
  unfold Canvas.pixel
  split
  · rename_i hb
    refine ⟨?_, by simp [hb]⟩
    rw [Frame.cell_toggle]
    simp only [hb, true_and]
    split
    · rename_i h; simp [Frame.cell, h.1, h.2]
    · rfl
  · rename_i hb
    simp [hb]

end Sys2Proof.Machine
end

