-- ==== Sys2Proof/Laws/Memory.lean ====
section
/-! SUPPORT. The laws of the memory as a canonical list of cells: a read after a write, and that every operation keeps
the canonical form. -/

namespace Sys2Proof.Machine

open Config

theorem Memory.byteAt_filter_ne (font : Font) (m : List Host.Cell) {a b : Nat} (h : b ≠ a) :
    Memory.byteAt font (m.filter fun c => c.1 ≠ a) b = Memory.byteAt font m b := by
  induction m with
  | nil => rfl
  | cons c rest ih =>
    obtain ⟨d, v⟩ := c
    by_cases hd : d = a
    · have hb : d ≠ b := fun e => h (e ▸ hd)
      simpa [List.filter_cons, hd, Memory.byteAt, hd ▸ hb] using ih
    · simp only [List.filter_cons, ne_eq, hd, not_false_eq_true, decide_true, if_true, Memory.byteAt]
      split
      · rfl
      · simpa using ih

theorem Memory.byteAt_filter_same (font : Font) (m : List Host.Cell) (a : Nat) :
    Memory.byteAt font (m.filter fun c => c.1 ≠ a) a = resetByte font a := by
  induction m with
  | nil => rfl
  | cons c rest ih =>
    obtain ⟨d, v⟩ := c
    by_cases hd : d = a
    · simpa [List.filter_cons, hd] using ih
    · simpa [List.filter_cons, hd, Memory.byteAt] using ih

theorem Memory.byteAt_insert_ne (font : Font) (m : List Host.Cell) {a b : Nat} (v : Byte) (h : b ≠ a) :
    Memory.byteAt font (Memory.insert a v m) b = Memory.byteAt font m b := by
  induction m with
  | nil => simp [Memory.insert, Memory.byteAt, h.symm]
  | cons c rest ih =>
    obtain ⟨d, w⟩ := c
    simp only [Memory.insert]
    split
    · simp [Memory.byteAt, h.symm]
    · simp [Memory.byteAt, ih]

theorem Memory.byteAt_insert_same (font : Font) (m : List Host.Cell) (a : Nat) (v : Byte)
    (h : ∀ c ∈ m, c.1 ≠ a) : Memory.byteAt font (Memory.insert a v m) a = v := by
  induction m with
  | nil => simp [Memory.insert, Memory.byteAt]
  | cons c rest ih =>
    obtain ⟨d, w⟩ := c
    have hd : d ≠ a := h (d, w) (by simp)
    simp only [Memory.insert]
    split
    · simp [Memory.byteAt]
    · simpa [Memory.byteAt, hd] using ih fun c hc => h c (by simp [hc])

/-- A read of the address written gives the value written, whatever the list (R52, R53). -/
theorem Memory.byteAt_setByte_same (font : Font) (m : List Host.Cell) (a : Nat) (v : Byte) :
    Memory.byteAt font (Memory.setByte font m a v) a = v := by
  unfold Memory.setByte
  split
  · rw [Memory.byteAt_filter_same]; exact Eq.symm ‹_›
  · exact Memory.byteAt_insert_same font _ a v fun c hc => by simpa using (List.mem_filter.1 hc).2

/-- A write leaves every other address as it was (R53). -/
theorem Memory.byteAt_setByte_ne (font : Font) (m : List Host.Cell) {a b : Nat} (v : Byte) (h : b ≠ a) :
    Memory.byteAt font (Memory.setByte font m a v) b = Memory.byteAt font m b := by
  unfold Memory.setByte
  split
  · exact Memory.byteAt_filter_ne font m h
  · rw [Memory.byteAt_insert_ne font _ v h, Memory.byteAt_filter_ne font m h]

theorem Memory.byteAt_setByte (font : Font) (m : List Host.Cell) (a b : Nat) (v : Byte) :
    Memory.byteAt font (Memory.setByte font m a v) b = if b = a then v else Memory.byteAt font m b := by
  split
  · subst_vars; exact Memory.byteAt_setByte_same font m _ v
  · exact Memory.byteAt_setByte_ne font m v ‹_›

theorem Memory.mem_insert {a : Nat} {v : Byte} {m : List Host.Cell} {c : Host.Cell} :
    c ∈ Memory.insert a v m ↔ c = (a, v) ∨ c ∈ m := by
  induction m with
  | nil => simp [Memory.insert]
  | cons d rest ih =>
    obtain ⟨b, w⟩ := d
    simp only [Memory.insert]
    split
    · simp
    · simp only [List.mem_cons, ih]; tauto

theorem Memory.pairwise_insert {a : Nat} {v : Byte} {m : List Host.Cell}
    (h : m.Pairwise fun c d => c.1 < d.1) (hne : ∀ c ∈ m, c.1 ≠ a) :
    (Memory.insert a v m).Pairwise fun c d => c.1 < d.1 := by
  induction m with
  | nil => simp [Memory.insert]
  | cons d rest ih =>
    obtain ⟨b, w⟩ := d
    have hb : b ≠ a := hne (b, w) (by simp)
    rw [List.pairwise_cons] at h
    simp only [Memory.insert]
    split
    · rename_i hab
      refine List.pairwise_cons.2 ⟨fun c hc => ?_, List.pairwise_cons.2 h⟩
      rcases List.mem_cons.1 hc with rfl | hc
      · exact hab
      · exact lt_trans hab (h.1 c hc)
    · refine List.pairwise_cons.2 ⟨fun c hc => ?_, ih h.2 fun c hc => hne c (by simp [hc])⟩
      rcases Memory.mem_insert.1 hc with rfl | hc
      · show b < a; omega
      · exact h.1 c hc

/-- Nothing listed is canonical. -/
theorem Memory.wf_nil (font : Font) : Memory.wf font [] := by simp [Memory.wf]

/-- A write keeps the canonical form. -/
theorem Memory.wf_setByte {font : Font} {m : List Host.Cell} (hm : Memory.wf font m) {a : Nat}
    (ha : a < memSize) (v : Byte) : Memory.wf font (Memory.setByte font m a v) := by
  have hf : (m.filter fun c => c.1 ≠ a).Pairwise fun c d => c.1 < d.1 := hm.1.filter _
  unfold Memory.setByte
  split
  · exact ⟨hf, fun c hc => hm.2 c (List.mem_filter.1 hc).1⟩
  · refine ⟨Memory.pairwise_insert hf fun c hc => by simpa using (List.mem_filter.1 hc).2, fun c hc => ?_⟩
    rcases Memory.mem_insert.1 hc with rfl | hc
    · exact ⟨ha, ‹_›⟩
    · exact hm.2 c (List.mem_filter.1 hc).1

theorem Memory.le_of_mem_image {font : Font} {a : Nat} {bytes : List Byte} {c : Host.Cell}
    (h : c ∈ Memory.image font a bytes) :
    a ≤ c.1 ∧ c.1 < a + bytes.length ∧ c.2 ≠ resetByte font c.1 := by
  induction bytes generalizing a with
  | nil => simp [Memory.image] at h
  | cons v vs ih =>
    simp only [Memory.image] at h
    split at h
    · have := ih h; simp only [List.length_cons]; exact ⟨by omega, by omega, this.2.2⟩
    · rcases List.mem_cons.1 h with rfl | h
      · simpa using ‹_›
      · have := ih h; simp only [List.length_cons]; exact ⟨by omega, by omega, this.2.2⟩

/-- An image that fits is laid in canonical form (R59, R251). -/
theorem Memory.wf_image (font : Font) (a : Nat) (bytes : List Byte) (h : a + bytes.length ≤ memSize) :
    Memory.wf font (Memory.image font a bytes) := by
  refine ⟨?_, fun c hc => ?_⟩
  · clear h
    induction bytes generalizing a with
    | nil => simp [Memory.image]
    | cons v vs ih =>
      simp only [Memory.image]
      split
      · exact ih (a + 1)
      · exact List.pairwise_cons.2 ⟨fun c hc => (Memory.le_of_mem_image hc).1, ih (a + 1)⟩
  · have := Memory.le_of_mem_image hc
    exact ⟨by omega, this.2.2⟩

/-- Every byte of the image (R59): the program's inside, the reset image outside. -/
theorem Memory.byteAt_image (font : Font) (a : Nat) (bytes : List Byte) (b : Nat) :
    Memory.byteAt font (Memory.image font a bytes) b =
      if a ≤ b then (bytes[b - a]?).getD (resetByte font b) else resetByte font b := by
  induction bytes generalizing a with
  | nil => simp [Memory.image, Memory.byteAt]
  | cons v vs ih =>
    by_cases hab : a = b
    · subst hab
      simp only [Memory.image]
      split
      · rename_i hv; rw [ih]; simp [hv]
      · simp [Memory.byteAt]
    · have hstep : Memory.byteAt font (Memory.image font a (v :: vs)) b =
          Memory.byteAt font (Memory.image font (a + 1) vs) b := by
        simp only [Memory.image]
        split
        · rfl
        · simp [Memory.byteAt, hab]
      rw [hstep, ih]
      by_cases hlt : a ≤ b
      · obtain ⟨k, rfl⟩ : ∃ k, b = a + 1 + k := ⟨b - (a + 1), by omega⟩
        have : a + 1 + k - a = k + 1 := by omega
        simp [hlt, this]
      · have : ¬ a + 1 ≤ b := by omega
        simp [hlt, this]

/-- A memory given byte by byte is canonical. -/
theorem Memory.wf_ofFn (font : Font) (f : Nat → Byte) : Memory.wf font (Memory.ofFn font f) := by
  refine ⟨?_, fun c hc => ?_⟩
  · unfold Memory.ofFn
    rw [List.pairwise_filterMap]
    refine List.pairwise_lt_range.imp fun {a b} hab c hc d hd => ?_
    split at hc <;> split at hd <;> simp_all
    subst_vars
    exact hab
  · unfold Memory.ofFn at hc
    obtain ⟨a, ha, hc⟩ := List.mem_filterMap.1 hc
    split at hc
    · simp at hc
    · obtain rfl : (a, f a) = c := by simpa using hc
      exact ⟨by simpa using ha, ‹_›⟩

end Sys2Proof.Machine
end

