-- ==== Sys2Proof/Laws/State.lean ====
section
/-! SUPPORT. What each update of the state does to each field: true by unfolding, so that no later proof unfolds an
update. -/

namespace Sys2Proof.Machine

variable (s : State)

/-! `State.setReg` -/

@[simp] theorem State.setReg_V (x : Nibble) (v : Byte) : (s.setReg x v).V = s.V.set x.toNat v x.isLt := rfl
@[simp] theorem State.setReg_I (x : Nibble) (v : Byte) : (s.setReg x v).I = s.I := rfl
@[simp] theorem State.setReg_pc (x : Nibble) (v : Byte) : (s.setReg x v).pc = s.pc := rfl
@[simp] theorem State.setReg_stack (x : Nibble) (v : Byte) : (s.setReg x v).stack = s.stack := rfl
@[simp] theorem State.setReg_sp (x : Nibble) (v : Byte) : (s.setReg x v).sp = s.sp := rfl
@[simp] theorem State.setReg_DT (x : Nibble) (v : Byte) : (s.setReg x v).DT = s.DT := rfl
@[simp] theorem State.setReg_ST (x : Nibble) (v : Byte) : (s.setReg x v).ST = s.ST := rfl
@[simp] theorem State.setReg_fb (x : Nibble) (v : Byte) : (s.setReg x v).fb = s.fb := rfl
@[simp] theorem State.setReg_draw (x : Nibble) (v : Byte) : (s.setReg x v).draw = s.draw := rfl
@[simp] theorem State.setReg_mem (x : Nibble) (v : Byte) : (s.setReg x v).mem = s.mem := rfl
@[simp] theorem State.setReg_rng (x : Nibble) (v : Byte) : (s.setReg x v).rng = s.rng := rfl
@[simp] theorem State.setReg_status (x : Nibble) (v : Byte) : (s.setReg x v).status = s.status := rfl
@[simp] theorem State.setReg_params (x : Nibble) (v : Byte) : (s.setReg x v).params = s.params := rfl
@[simp] theorem State.setReg_draws (x : Nibble) (v : Byte) : (s.setReg x v).draws = s.draws := rfl
@[simp] theorem State.setReg_agenda (x : Nibble) (v : Byte) : (s.setReg x v).agenda = s.agenda := rfl
@[simp] theorem State.setReg_reply (x : Nibble) (v : Byte) : (s.setReg x v).reply = s.reply := rfl
@[simp] theorem State.setReg_byteAt (x : Nibble) (v : Byte) (i : Nat) : (s.setReg x v).byteAt i = s.byteAt i := rfl
@[simp] theorem State.setReg_dataAddr (x : Nibble) (v : Byte) (k : Nat) : (s.setReg x v).dataAddr k = s.dataAddr k := rfl

/-! `State.setV` -/

@[simp] theorem State.setV_V (v : Vector Byte 16) : (s.setV v).V = v := rfl
@[simp] theorem State.setV_I (v : Vector Byte 16) : (s.setV v).I = s.I := rfl
@[simp] theorem State.setV_pc (v : Vector Byte 16) : (s.setV v).pc = s.pc := rfl
@[simp] theorem State.setV_stack (v : Vector Byte 16) : (s.setV v).stack = s.stack := rfl
@[simp] theorem State.setV_sp (v : Vector Byte 16) : (s.setV v).sp = s.sp := rfl
@[simp] theorem State.setV_DT (v : Vector Byte 16) : (s.setV v).DT = s.DT := rfl
@[simp] theorem State.setV_ST (v : Vector Byte 16) : (s.setV v).ST = s.ST := rfl
@[simp] theorem State.setV_fb (v : Vector Byte 16) : (s.setV v).fb = s.fb := rfl
@[simp] theorem State.setV_draw (v : Vector Byte 16) : (s.setV v).draw = s.draw := rfl
@[simp] theorem State.setV_mem (v : Vector Byte 16) : (s.setV v).mem = s.mem := rfl
@[simp] theorem State.setV_rng (v : Vector Byte 16) : (s.setV v).rng = s.rng := rfl
@[simp] theorem State.setV_status (v : Vector Byte 16) : (s.setV v).status = s.status := rfl
@[simp] theorem State.setV_params (v : Vector Byte 16) : (s.setV v).params = s.params := rfl
@[simp] theorem State.setV_draws (v : Vector Byte 16) : (s.setV v).draws = s.draws := rfl
@[simp] theorem State.setV_agenda (v : Vector Byte 16) : (s.setV v).agenda = s.agenda := rfl
@[simp] theorem State.setV_reply (v : Vector Byte 16) : (s.setV v).reply = s.reply := rfl
@[simp] theorem State.setV_byteAt (v : Vector Byte 16) (i : Nat) : (s.setV v).byteAt i = s.byteAt i := rfl
@[simp] theorem State.setV_dataAddr (v : Vector Byte 16) (k : Nat) : (s.setV v).dataAddr k = s.dataAddr k := rfl

/-! `State.setI` -/

@[simp] theorem State.setI_V (v : Word) : (s.setI v).V = s.V := rfl
@[simp] theorem State.setI_I (v : Word) : (s.setI v).I = v := rfl
@[simp] theorem State.setI_pc (v : Word) : (s.setI v).pc = s.pc := rfl
@[simp] theorem State.setI_stack (v : Word) : (s.setI v).stack = s.stack := rfl
@[simp] theorem State.setI_sp (v : Word) : (s.setI v).sp = s.sp := rfl
@[simp] theorem State.setI_DT (v : Word) : (s.setI v).DT = s.DT := rfl
@[simp] theorem State.setI_ST (v : Word) : (s.setI v).ST = s.ST := rfl
@[simp] theorem State.setI_fb (v : Word) : (s.setI v).fb = s.fb := rfl
@[simp] theorem State.setI_draw (v : Word) : (s.setI v).draw = s.draw := rfl
@[simp] theorem State.setI_mem (v : Word) : (s.setI v).mem = s.mem := rfl
@[simp] theorem State.setI_rng (v : Word) : (s.setI v).rng = s.rng := rfl
@[simp] theorem State.setI_status (v : Word) : (s.setI v).status = s.status := rfl
@[simp] theorem State.setI_params (v : Word) : (s.setI v).params = s.params := rfl
@[simp] theorem State.setI_draws (v : Word) : (s.setI v).draws = s.draws := rfl
@[simp] theorem State.setI_agenda (v : Word) : (s.setI v).agenda = s.agenda := rfl
@[simp] theorem State.setI_reply (v : Word) : (s.setI v).reply = s.reply := rfl
@[simp] theorem State.setI_reg (v : Word) (y : Nibble) : (s.setI v).reg y = s.reg y := rfl
@[simp] theorem State.setI_byteAt (v : Word) (i : Nat) : (s.setI v).byteAt i = s.byteAt i := rfl

/-! `State.setPc` -/

@[simp] theorem State.setPc_V (v : Word) : (s.setPc v).V = s.V := rfl
@[simp] theorem State.setPc_I (v : Word) : (s.setPc v).I = s.I := rfl
@[simp] theorem State.setPc_pc (v : Word) : (s.setPc v).pc = v := rfl
@[simp] theorem State.setPc_stack (v : Word) : (s.setPc v).stack = s.stack := rfl
@[simp] theorem State.setPc_sp (v : Word) : (s.setPc v).sp = s.sp := rfl
@[simp] theorem State.setPc_DT (v : Word) : (s.setPc v).DT = s.DT := rfl
@[simp] theorem State.setPc_ST (v : Word) : (s.setPc v).ST = s.ST := rfl
@[simp] theorem State.setPc_fb (v : Word) : (s.setPc v).fb = s.fb := rfl
@[simp] theorem State.setPc_draw (v : Word) : (s.setPc v).draw = s.draw := rfl
@[simp] theorem State.setPc_mem (v : Word) : (s.setPc v).mem = s.mem := rfl
@[simp] theorem State.setPc_rng (v : Word) : (s.setPc v).rng = s.rng := rfl
@[simp] theorem State.setPc_status (v : Word) : (s.setPc v).status = s.status := rfl
@[simp] theorem State.setPc_params (v : Word) : (s.setPc v).params = s.params := rfl
@[simp] theorem State.setPc_draws (v : Word) : (s.setPc v).draws = s.draws := rfl
@[simp] theorem State.setPc_agenda (v : Word) : (s.setPc v).agenda = s.agenda := rfl
@[simp] theorem State.setPc_reply (v : Word) : (s.setPc v).reply = s.reply := rfl
@[simp] theorem State.setPc_reg (v : Word) (y : Nibble) : (s.setPc v).reg y = s.reg y := rfl
@[simp] theorem State.setPc_byteAt (v : Word) (i : Nat) : (s.setPc v).byteAt i = s.byteAt i := rfl
@[simp] theorem State.setPc_dataAddr (v : Word) (k : Nat) : (s.setPc v).dataAddr k = s.dataAddr k := rfl

/-! `State.setDT` -/

@[simp] theorem State.setDT_V (v : Byte) : (s.setDT v).V = s.V := rfl
@[simp] theorem State.setDT_I (v : Byte) : (s.setDT v).I = s.I := rfl
@[simp] theorem State.setDT_pc (v : Byte) : (s.setDT v).pc = s.pc := rfl
@[simp] theorem State.setDT_stack (v : Byte) : (s.setDT v).stack = s.stack := rfl
@[simp] theorem State.setDT_sp (v : Byte) : (s.setDT v).sp = s.sp := rfl
@[simp] theorem State.setDT_DT (v : Byte) : (s.setDT v).DT = v := rfl
@[simp] theorem State.setDT_ST (v : Byte) : (s.setDT v).ST = s.ST := rfl
@[simp] theorem State.setDT_fb (v : Byte) : (s.setDT v).fb = s.fb := rfl
@[simp] theorem State.setDT_draw (v : Byte) : (s.setDT v).draw = s.draw := rfl
@[simp] theorem State.setDT_mem (v : Byte) : (s.setDT v).mem = s.mem := rfl
@[simp] theorem State.setDT_rng (v : Byte) : (s.setDT v).rng = s.rng := rfl
@[simp] theorem State.setDT_status (v : Byte) : (s.setDT v).status = s.status := rfl
@[simp] theorem State.setDT_params (v : Byte) : (s.setDT v).params = s.params := rfl
@[simp] theorem State.setDT_draws (v : Byte) : (s.setDT v).draws = s.draws := rfl
@[simp] theorem State.setDT_agenda (v : Byte) : (s.setDT v).agenda = s.agenda := rfl
@[simp] theorem State.setDT_reply (v : Byte) : (s.setDT v).reply = s.reply := rfl
@[simp] theorem State.setDT_reg (v : Byte) (y : Nibble) : (s.setDT v).reg y = s.reg y := rfl
@[simp] theorem State.setDT_byteAt (v : Byte) (i : Nat) : (s.setDT v).byteAt i = s.byteAt i := rfl
@[simp] theorem State.setDT_dataAddr (v : Byte) (k : Nat) : (s.setDT v).dataAddr k = s.dataAddr k := rfl

/-! `State.setST` -/

@[simp] theorem State.setST_V (v : Byte) : (s.setST v).V = s.V := rfl
@[simp] theorem State.setST_I (v : Byte) : (s.setST v).I = s.I := rfl
@[simp] theorem State.setST_pc (v : Byte) : (s.setST v).pc = s.pc := rfl
@[simp] theorem State.setST_stack (v : Byte) : (s.setST v).stack = s.stack := rfl
@[simp] theorem State.setST_sp (v : Byte) : (s.setST v).sp = s.sp := rfl
@[simp] theorem State.setST_DT (v : Byte) : (s.setST v).DT = s.DT := rfl
@[simp] theorem State.setST_ST (v : Byte) : (s.setST v).ST = v := rfl
@[simp] theorem State.setST_fb (v : Byte) : (s.setST v).fb = s.fb := rfl
@[simp] theorem State.setST_draw (v : Byte) : (s.setST v).draw = s.draw := rfl
@[simp] theorem State.setST_mem (v : Byte) : (s.setST v).mem = s.mem := rfl
@[simp] theorem State.setST_rng (v : Byte) : (s.setST v).rng = s.rng := rfl
@[simp] theorem State.setST_status (v : Byte) : (s.setST v).status = s.status := rfl
@[simp] theorem State.setST_params (v : Byte) : (s.setST v).params = s.params := rfl
@[simp] theorem State.setST_draws (v : Byte) : (s.setST v).draws = s.draws := rfl
@[simp] theorem State.setST_agenda (v : Byte) : (s.setST v).agenda = s.agenda := rfl
@[simp] theorem State.setST_reply (v : Byte) : (s.setST v).reply = s.reply := rfl
@[simp] theorem State.setST_reg (v : Byte) (y : Nibble) : (s.setST v).reg y = s.reg y := rfl
@[simp] theorem State.setST_byteAt (v : Byte) (i : Nat) : (s.setST v).byteAt i = s.byteAt i := rfl
@[simp] theorem State.setST_dataAddr (v : Byte) (k : Nat) : (s.setST v).dataAddr k = s.dataAddr k := rfl

/-! `State.paint` -/

@[simp] theorem State.paint_V (f : Config.Frame) : (s.paint f).V = s.V := rfl
@[simp] theorem State.paint_I (f : Config.Frame) : (s.paint f).I = s.I := rfl
@[simp] theorem State.paint_pc (f : Config.Frame) : (s.paint f).pc = s.pc := rfl
@[simp] theorem State.paint_stack (f : Config.Frame) : (s.paint f).stack = s.stack := rfl
@[simp] theorem State.paint_sp (f : Config.Frame) : (s.paint f).sp = s.sp := rfl
@[simp] theorem State.paint_DT (f : Config.Frame) : (s.paint f).DT = s.DT := rfl
@[simp] theorem State.paint_ST (f : Config.Frame) : (s.paint f).ST = s.ST := rfl
@[simp] theorem State.paint_fb (f : Config.Frame) : (s.paint f).fb = f := rfl
@[simp] theorem State.paint_draw (f : Config.Frame) : (s.paint f).draw = true := rfl
@[simp] theorem State.paint_mem (f : Config.Frame) : (s.paint f).mem = s.mem := rfl
@[simp] theorem State.paint_rng (f : Config.Frame) : (s.paint f).rng = s.rng := rfl
@[simp] theorem State.paint_status (f : Config.Frame) : (s.paint f).status = s.status := rfl
@[simp] theorem State.paint_params (f : Config.Frame) : (s.paint f).params = s.params := rfl
@[simp] theorem State.paint_draws (f : Config.Frame) : (s.paint f).draws = s.draws := rfl
@[simp] theorem State.paint_agenda (f : Config.Frame) : (s.paint f).agenda = s.agenda := rfl
@[simp] theorem State.paint_reply (f : Config.Frame) : (s.paint f).reply = s.reply := rfl
@[simp] theorem State.paint_reg (f : Config.Frame) (y : Nibble) : (s.paint f).reg y = s.reg y := rfl
@[simp] theorem State.paint_byteAt (f : Config.Frame) (i : Nat) : (s.paint f).byteAt i = s.byteAt i := rfl
@[simp] theorem State.paint_dataAddr (f : Config.Frame) (k : Nat) : (s.paint f).dataAddr k = s.dataAddr k := rfl

/-! `State.clearDraw` -/

@[simp] theorem State.clearDraw_V : (s.clearDraw).V = s.V := rfl
@[simp] theorem State.clearDraw_I : (s.clearDraw).I = s.I := rfl
@[simp] theorem State.clearDraw_pc : (s.clearDraw).pc = s.pc := rfl
@[simp] theorem State.clearDraw_stack : (s.clearDraw).stack = s.stack := rfl
@[simp] theorem State.clearDraw_sp : (s.clearDraw).sp = s.sp := rfl
@[simp] theorem State.clearDraw_DT : (s.clearDraw).DT = s.DT := rfl
@[simp] theorem State.clearDraw_ST : (s.clearDraw).ST = s.ST := rfl
@[simp] theorem State.clearDraw_fb : (s.clearDraw).fb = s.fb := rfl
@[simp] theorem State.clearDraw_draw : (s.clearDraw).draw = false := rfl
@[simp] theorem State.clearDraw_mem : (s.clearDraw).mem = s.mem := rfl
@[simp] theorem State.clearDraw_rng : (s.clearDraw).rng = s.rng := rfl
@[simp] theorem State.clearDraw_status : (s.clearDraw).status = s.status := rfl
@[simp] theorem State.clearDraw_params : (s.clearDraw).params = s.params := rfl
@[simp] theorem State.clearDraw_draws : (s.clearDraw).draws = s.draws := rfl
@[simp] theorem State.clearDraw_agenda : (s.clearDraw).agenda = s.agenda := rfl
@[simp] theorem State.clearDraw_reply : (s.clearDraw).reply = s.reply := rfl
@[simp] theorem State.clearDraw_reg (y : Nibble) : (s.clearDraw).reg y = s.reg y := rfl
@[simp] theorem State.clearDraw_byteAt (i : Nat) : (s.clearDraw).byteAt i = s.byteAt i := rfl
@[simp] theorem State.clearDraw_dataAddr (k : Nat) : (s.clearDraw).dataAddr k = s.dataAddr k := rfl

/-! `State.setMem` -/

@[simp] theorem State.setMem_V (m : List Host.Cell) : (s.setMem m).V = s.V := rfl
@[simp] theorem State.setMem_I (m : List Host.Cell) : (s.setMem m).I = s.I := rfl
@[simp] theorem State.setMem_pc (m : List Host.Cell) : (s.setMem m).pc = s.pc := rfl
@[simp] theorem State.setMem_stack (m : List Host.Cell) : (s.setMem m).stack = s.stack := rfl
@[simp] theorem State.setMem_sp (m : List Host.Cell) : (s.setMem m).sp = s.sp := rfl
@[simp] theorem State.setMem_DT (m : List Host.Cell) : (s.setMem m).DT = s.DT := rfl
@[simp] theorem State.setMem_ST (m : List Host.Cell) : (s.setMem m).ST = s.ST := rfl
@[simp] theorem State.setMem_fb (m : List Host.Cell) : (s.setMem m).fb = s.fb := rfl
@[simp] theorem State.setMem_draw (m : List Host.Cell) : (s.setMem m).draw = s.draw := rfl
@[simp] theorem State.setMem_mem (m : List Host.Cell) : (s.setMem m).mem = m := rfl
@[simp] theorem State.setMem_rng (m : List Host.Cell) : (s.setMem m).rng = s.rng := rfl
@[simp] theorem State.setMem_status (m : List Host.Cell) : (s.setMem m).status = s.status := rfl
@[simp] theorem State.setMem_params (m : List Host.Cell) : (s.setMem m).params = s.params := rfl
@[simp] theorem State.setMem_draws (m : List Host.Cell) : (s.setMem m).draws = s.draws := rfl
@[simp] theorem State.setMem_agenda (m : List Host.Cell) : (s.setMem m).agenda = s.agenda := rfl
@[simp] theorem State.setMem_reply (m : List Host.Cell) : (s.setMem m).reply = s.reply := rfl
@[simp] theorem State.setMem_reg (m : List Host.Cell) (y : Nibble) : (s.setMem m).reg y = s.reg y := rfl
@[simp] theorem State.setMem_dataAddr (m : List Host.Cell) (k : Nat) : (s.setMem m).dataAddr k = s.dataAddr k := rfl

/-! `State.drawnRandom` -/

@[simp] theorem State.drawnRandom_V : (s.drawnRandom).V = s.V := rfl
@[simp] theorem State.drawnRandom_I : (s.drawnRandom).I = s.I := rfl
@[simp] theorem State.drawnRandom_pc : (s.drawnRandom).pc = s.pc := rfl
@[simp] theorem State.drawnRandom_stack : (s.drawnRandom).stack = s.stack := rfl
@[simp] theorem State.drawnRandom_sp : (s.drawnRandom).sp = s.sp := rfl
@[simp] theorem State.drawnRandom_DT : (s.drawnRandom).DT = s.DT := rfl
@[simp] theorem State.drawnRandom_ST : (s.drawnRandom).ST = s.ST := rfl
@[simp] theorem State.drawnRandom_fb : (s.drawnRandom).fb = s.fb := rfl
@[simp] theorem State.drawnRandom_draw : (s.drawnRandom).draw = s.draw := rfl
@[simp] theorem State.drawnRandom_mem : (s.drawnRandom).mem = s.mem := rfl
@[simp] theorem State.drawnRandom_rng : (s.drawnRandom).rng = s.rng + 1 := rfl
@[simp] theorem State.drawnRandom_status : (s.drawnRandom).status = s.status := rfl
@[simp] theorem State.drawnRandom_params : (s.drawnRandom).params = s.params := rfl
@[simp] theorem State.drawnRandom_draws : (s.drawnRandom).draws = s.draws := rfl
@[simp] theorem State.drawnRandom_agenda : (s.drawnRandom).agenda = s.agenda := rfl
@[simp] theorem State.drawnRandom_reply : (s.drawnRandom).reply = s.reply := rfl
@[simp] theorem State.drawnRandom_reg (y : Nibble) : (s.drawnRandom).reg y = s.reg y := rfl
@[simp] theorem State.drawnRandom_byteAt (i : Nat) : (s.drawnRandom).byteAt i = s.byteAt i := rfl
@[simp] theorem State.drawnRandom_dataAddr (k : Nat) : (s.drawnRandom).dataAddr k = s.dataAddr k := rfl

/-! `State.drawnInput` -/

@[simp] theorem State.drawnInput_V : (s.drawnInput).V = s.V := rfl
@[simp] theorem State.drawnInput_I : (s.drawnInput).I = s.I := rfl
@[simp] theorem State.drawnInput_pc : (s.drawnInput).pc = s.pc := rfl
@[simp] theorem State.drawnInput_stack : (s.drawnInput).stack = s.stack := rfl
@[simp] theorem State.drawnInput_sp : (s.drawnInput).sp = s.sp := rfl
@[simp] theorem State.drawnInput_DT : (s.drawnInput).DT = s.DT := rfl
@[simp] theorem State.drawnInput_ST : (s.drawnInput).ST = s.ST := rfl
@[simp] theorem State.drawnInput_fb : (s.drawnInput).fb = s.fb := rfl
@[simp] theorem State.drawnInput_draw : (s.drawnInput).draw = s.draw := rfl
@[simp] theorem State.drawnInput_mem : (s.drawnInput).mem = s.mem := rfl
@[simp] theorem State.drawnInput_rng : (s.drawnInput).rng = s.rng := rfl
@[simp] theorem State.drawnInput_status : (s.drawnInput).status = s.status := rfl
@[simp] theorem State.drawnInput_params : (s.drawnInput).params = s.params := rfl
@[simp] theorem State.drawnInput_draws : (s.drawnInput).draws = s.draws + 1 := rfl
@[simp] theorem State.drawnInput_agenda : (s.drawnInput).agenda = s.agenda := rfl
@[simp] theorem State.drawnInput_reply : (s.drawnInput).reply = s.reply := rfl
@[simp] theorem State.drawnInput_reg (y : Nibble) : (s.drawnInput).reg y = s.reg y := rfl
@[simp] theorem State.drawnInput_byteAt (i : Nat) : (s.drawnInput).byteAt i = s.byteAt i := rfl
@[simp] theorem State.drawnInput_dataAddr (k : Nat) : (s.drawnInput).dataAddr k = s.dataAddr k := rfl

/-! `State.setStatus` -/

@[simp] theorem State.setStatus_V (v : Status) : (s.setStatus v).V = s.V := rfl
@[simp] theorem State.setStatus_I (v : Status) : (s.setStatus v).I = s.I := rfl
@[simp] theorem State.setStatus_pc (v : Status) : (s.setStatus v).pc = s.pc := rfl
@[simp] theorem State.setStatus_stack (v : Status) : (s.setStatus v).stack = s.stack := rfl
@[simp] theorem State.setStatus_sp (v : Status) : (s.setStatus v).sp = s.sp := rfl
@[simp] theorem State.setStatus_DT (v : Status) : (s.setStatus v).DT = s.DT := rfl
@[simp] theorem State.setStatus_ST (v : Status) : (s.setStatus v).ST = s.ST := rfl
@[simp] theorem State.setStatus_fb (v : Status) : (s.setStatus v).fb = s.fb := rfl
@[simp] theorem State.setStatus_draw (v : Status) : (s.setStatus v).draw = s.draw := rfl
@[simp] theorem State.setStatus_mem (v : Status) : (s.setStatus v).mem = s.mem := rfl
@[simp] theorem State.setStatus_rng (v : Status) : (s.setStatus v).rng = s.rng := rfl
@[simp] theorem State.setStatus_status (v : Status) : (s.setStatus v).status = v := rfl
@[simp] theorem State.setStatus_params (v : Status) : (s.setStatus v).params = s.params := rfl
@[simp] theorem State.setStatus_draws (v : Status) : (s.setStatus v).draws = s.draws := rfl
@[simp] theorem State.setStatus_agenda (v : Status) : (s.setStatus v).agenda = s.agenda := rfl
@[simp] theorem State.setStatus_reply (v : Status) : (s.setStatus v).reply = s.reply := rfl
@[simp] theorem State.setStatus_reg (v : Status) (y : Nibble) : (s.setStatus v).reg y = s.reg y := rfl
@[simp] theorem State.setStatus_byteAt (v : Status) (i : Nat) : (s.setStatus v).byteAt i = s.byteAt i := rfl
@[simp] theorem State.setStatus_dataAddr (v : Status) (k : Nat) : (s.setStatus v).dataAddr k = s.dataAddr k := rfl

/-! `State.setReply` -/

@[simp] theorem State.setReply_V (r : Reply) : (s.setReply r).V = s.V := rfl
@[simp] theorem State.setReply_I (r : Reply) : (s.setReply r).I = s.I := rfl
@[simp] theorem State.setReply_pc (r : Reply) : (s.setReply r).pc = s.pc := rfl
@[simp] theorem State.setReply_stack (r : Reply) : (s.setReply r).stack = s.stack := rfl
@[simp] theorem State.setReply_sp (r : Reply) : (s.setReply r).sp = s.sp := rfl
@[simp] theorem State.setReply_DT (r : Reply) : (s.setReply r).DT = s.DT := rfl
@[simp] theorem State.setReply_ST (r : Reply) : (s.setReply r).ST = s.ST := rfl
@[simp] theorem State.setReply_fb (r : Reply) : (s.setReply r).fb = s.fb := rfl
@[simp] theorem State.setReply_draw (r : Reply) : (s.setReply r).draw = s.draw := rfl
@[simp] theorem State.setReply_mem (r : Reply) : (s.setReply r).mem = s.mem := rfl
@[simp] theorem State.setReply_rng (r : Reply) : (s.setReply r).rng = s.rng := rfl
@[simp] theorem State.setReply_status (r : Reply) : (s.setReply r).status = s.status := rfl
@[simp] theorem State.setReply_params (r : Reply) : (s.setReply r).params = s.params := rfl
@[simp] theorem State.setReply_draws (r : Reply) : (s.setReply r).draws = s.draws := rfl
@[simp] theorem State.setReply_agenda (r : Reply) : (s.setReply r).agenda = s.agenda := rfl
@[simp] theorem State.setReply_reply (r : Reply) : (s.setReply r).reply = r := rfl
@[simp] theorem State.setReply_reg (r : Reply) (y : Nibble) : (s.setReply r).reg y = s.reg y := rfl
@[simp] theorem State.setReply_byteAt (r : Reply) (i : Nat) : (s.setReply r).byteAt i = s.byteAt i := rfl
@[simp] theorem State.setReply_dataAddr (r : Reply) (k : Nat) : (s.setReply r).dataAddr k = s.dataAddr k := rfl

/-! `State.setAgenda` -/

@[simp] theorem State.setAgenda_V (l : List HostMove) : (s.setAgenda l).V = s.V := rfl
@[simp] theorem State.setAgenda_I (l : List HostMove) : (s.setAgenda l).I = s.I := rfl
@[simp] theorem State.setAgenda_pc (l : List HostMove) : (s.setAgenda l).pc = s.pc := rfl
@[simp] theorem State.setAgenda_stack (l : List HostMove) : (s.setAgenda l).stack = s.stack := rfl
@[simp] theorem State.setAgenda_sp (l : List HostMove) : (s.setAgenda l).sp = s.sp := rfl
@[simp] theorem State.setAgenda_DT (l : List HostMove) : (s.setAgenda l).DT = s.DT := rfl
@[simp] theorem State.setAgenda_ST (l : List HostMove) : (s.setAgenda l).ST = s.ST := rfl
@[simp] theorem State.setAgenda_fb (l : List HostMove) : (s.setAgenda l).fb = s.fb := rfl
@[simp] theorem State.setAgenda_draw (l : List HostMove) : (s.setAgenda l).draw = s.draw := rfl
@[simp] theorem State.setAgenda_mem (l : List HostMove) : (s.setAgenda l).mem = s.mem := rfl
@[simp] theorem State.setAgenda_rng (l : List HostMove) : (s.setAgenda l).rng = s.rng := rfl
@[simp] theorem State.setAgenda_status (l : List HostMove) : (s.setAgenda l).status = s.status := rfl
@[simp] theorem State.setAgenda_params (l : List HostMove) : (s.setAgenda l).params = s.params := rfl
@[simp] theorem State.setAgenda_draws (l : List HostMove) : (s.setAgenda l).draws = s.draws := rfl
@[simp] theorem State.setAgenda_agenda (l : List HostMove) : (s.setAgenda l).agenda = l := rfl
@[simp] theorem State.setAgenda_reply (l : List HostMove) : (s.setAgenda l).reply = s.reply := rfl
@[simp] theorem State.setAgenda_reg (l : List HostMove) (y : Nibble) : (s.setAgenda l).reg y = s.reg y := rfl
@[simp] theorem State.setAgenda_byteAt (l : List HostMove) (i : Nat) : (s.setAgenda l).byteAt i = s.byteAt i := rfl
@[simp] theorem State.setAgenda_dataAddr (l : List HostMove) (k : Nat) : (s.setAgenda l).dataAddr k = s.dataAddr k := rfl

/-! `State.setSp` -/

@[simp] theorem State.setSp_V (n : Fin 17) : (s.setSp n).V = s.V := rfl
@[simp] theorem State.setSp_I (n : Fin 17) : (s.setSp n).I = s.I := rfl
@[simp] theorem State.setSp_pc (n : Fin 17) : (s.setSp n).pc = s.pc := rfl
@[simp] theorem State.setSp_stack (n : Fin 17) : (s.setSp n).stack = s.stack := rfl
@[simp] theorem State.setSp_sp (n : Fin 17) : (s.setSp n).sp = n := rfl
@[simp] theorem State.setSp_DT (n : Fin 17) : (s.setSp n).DT = s.DT := rfl
@[simp] theorem State.setSp_ST (n : Fin 17) : (s.setSp n).ST = s.ST := rfl
@[simp] theorem State.setSp_fb (n : Fin 17) : (s.setSp n).fb = s.fb := rfl
@[simp] theorem State.setSp_draw (n : Fin 17) : (s.setSp n).draw = s.draw := rfl
@[simp] theorem State.setSp_mem (n : Fin 17) : (s.setSp n).mem = s.mem := rfl
@[simp] theorem State.setSp_rng (n : Fin 17) : (s.setSp n).rng = s.rng := rfl
@[simp] theorem State.setSp_status (n : Fin 17) : (s.setSp n).status = s.status := rfl
@[simp] theorem State.setSp_params (n : Fin 17) : (s.setSp n).params = s.params := rfl
@[simp] theorem State.setSp_draws (n : Fin 17) : (s.setSp n).draws = s.draws := rfl
@[simp] theorem State.setSp_agenda (n : Fin 17) : (s.setSp n).agenda = s.agenda := rfl
@[simp] theorem State.setSp_reply (n : Fin 17) : (s.setSp n).reply = s.reply := rfl
@[simp] theorem State.setSp_reg (n : Fin 17) (y : Nibble) : (s.setSp n).reg y = s.reg y := rfl
@[simp] theorem State.setSp_byteAt (n : Fin 17) (i : Nat) : (s.setSp n).byteAt i = s.byteAt i := rfl
@[simp] theorem State.setSp_dataAddr (n : Fin 17) (k : Nat) : (s.setSp n).dataAddr k = s.dataAddr k := rfl

/-! `State.pushed` -/

@[simp] theorem State.pushed_V (v : Word) (h : s.sp.val < 16) : (s.pushed v h).V = s.V := rfl
@[simp] theorem State.pushed_I (v : Word) (h : s.sp.val < 16) : (s.pushed v h).I = s.I := rfl
@[simp] theorem State.pushed_pc (v : Word) (h : s.sp.val < 16) : (s.pushed v h).pc = s.pc := rfl
@[simp] theorem State.pushed_stack (v : Word) (h : s.sp.val < 16) : (s.pushed v h).stack = s.stack.set s.sp.val v h := rfl
@[simp] theorem State.pushed_sp (v : Word) (h : s.sp.val < 16) : (s.pushed v h).sp = ⟨s.sp.val + 1, Nat.succ_lt_succ h⟩ := rfl
@[simp] theorem State.pushed_DT (v : Word) (h : s.sp.val < 16) : (s.pushed v h).DT = s.DT := rfl
@[simp] theorem State.pushed_ST (v : Word) (h : s.sp.val < 16) : (s.pushed v h).ST = s.ST := rfl
@[simp] theorem State.pushed_fb (v : Word) (h : s.sp.val < 16) : (s.pushed v h).fb = s.fb := rfl
@[simp] theorem State.pushed_draw (v : Word) (h : s.sp.val < 16) : (s.pushed v h).draw = s.draw := rfl
@[simp] theorem State.pushed_mem (v : Word) (h : s.sp.val < 16) : (s.pushed v h).mem = s.mem := rfl
@[simp] theorem State.pushed_rng (v : Word) (h : s.sp.val < 16) : (s.pushed v h).rng = s.rng := rfl
@[simp] theorem State.pushed_status (v : Word) (h : s.sp.val < 16) : (s.pushed v h).status = s.status := rfl
@[simp] theorem State.pushed_params (v : Word) (h : s.sp.val < 16) : (s.pushed v h).params = s.params := rfl
@[simp] theorem State.pushed_draws (v : Word) (h : s.sp.val < 16) : (s.pushed v h).draws = s.draws := rfl
@[simp] theorem State.pushed_agenda (v : Word) (h : s.sp.val < 16) : (s.pushed v h).agenda = s.agenda := rfl
@[simp] theorem State.pushed_reply (v : Word) (h : s.sp.val < 16) : (s.pushed v h).reply = s.reply := rfl
@[simp] theorem State.pushed_reg (v : Word) (h : s.sp.val < 16) (y : Nibble) : (s.pushed v h).reg y = s.reg y := rfl
@[simp] theorem State.pushed_byteAt (v : Word) (h : s.sp.val < 16) (i : Nat) : (s.pushed v h).byteAt i = s.byteAt i := rfl
@[simp] theorem State.pushed_dataAddr (v : Word) (h : s.sp.val < 16) (k : Nat) : (s.pushed v h).dataAddr k = s.dataAddr k := rfl

/-! `State.advance` -/

@[simp] theorem State.advance_V : (s.advance).V = s.V := rfl
@[simp] theorem State.advance_I : (s.advance).I = s.I := rfl
@[simp] theorem State.advance_pc : (s.advance).pc = s.pc + 2 := rfl
@[simp] theorem State.advance_stack : (s.advance).stack = s.stack := rfl
@[simp] theorem State.advance_sp : (s.advance).sp = s.sp := rfl
@[simp] theorem State.advance_DT : (s.advance).DT = s.DT := rfl
@[simp] theorem State.advance_ST : (s.advance).ST = s.ST := rfl
@[simp] theorem State.advance_fb : (s.advance).fb = s.fb := rfl
@[simp] theorem State.advance_draw : (s.advance).draw = s.draw := rfl
@[simp] theorem State.advance_mem : (s.advance).mem = s.mem := rfl
@[simp] theorem State.advance_rng : (s.advance).rng = s.rng := rfl
@[simp] theorem State.advance_status : (s.advance).status = s.status := rfl
@[simp] theorem State.advance_params : (s.advance).params = s.params := rfl
@[simp] theorem State.advance_draws : (s.advance).draws = s.draws := rfl
@[simp] theorem State.advance_agenda : (s.advance).agenda = s.agenda := rfl
@[simp] theorem State.advance_reply : (s.advance).reply = s.reply := rfl
@[simp] theorem State.advance_reg (y : Nibble) : (s.advance).reg y = s.reg y := rfl
@[simp] theorem State.advance_byteAt (i : Nat) : (s.advance).byteAt i = s.byteAt i := rfl
@[simp] theorem State.advance_dataAddr (k : Nat) : (s.advance).dataAddr k = s.dataAddr k := rfl

/-! `State.skipIf` -/

@[simp] theorem State.skipIf_V (c : Bool) : (s.skipIf c).V = s.V := rfl
@[simp] theorem State.skipIf_I (c : Bool) : (s.skipIf c).I = s.I := rfl
@[simp] theorem State.skipIf_pc (c : Bool) : (s.skipIf c).pc = if c then s.pc + 4 else s.pc + 2 := rfl
@[simp] theorem State.skipIf_stack (c : Bool) : (s.skipIf c).stack = s.stack := rfl
@[simp] theorem State.skipIf_sp (c : Bool) : (s.skipIf c).sp = s.sp := rfl
@[simp] theorem State.skipIf_DT (c : Bool) : (s.skipIf c).DT = s.DT := rfl
@[simp] theorem State.skipIf_ST (c : Bool) : (s.skipIf c).ST = s.ST := rfl
@[simp] theorem State.skipIf_fb (c : Bool) : (s.skipIf c).fb = s.fb := rfl
@[simp] theorem State.skipIf_draw (c : Bool) : (s.skipIf c).draw = s.draw := rfl
@[simp] theorem State.skipIf_mem (c : Bool) : (s.skipIf c).mem = s.mem := rfl
@[simp] theorem State.skipIf_rng (c : Bool) : (s.skipIf c).rng = s.rng := rfl
@[simp] theorem State.skipIf_status (c : Bool) : (s.skipIf c).status = s.status := rfl
@[simp] theorem State.skipIf_params (c : Bool) : (s.skipIf c).params = s.params := rfl
@[simp] theorem State.skipIf_draws (c : Bool) : (s.skipIf c).draws = s.draws := rfl
@[simp] theorem State.skipIf_agenda (c : Bool) : (s.skipIf c).agenda = s.agenda := rfl
@[simp] theorem State.skipIf_reply (c : Bool) : (s.skipIf c).reply = s.reply := rfl
@[simp] theorem State.skipIf_reg (c : Bool) (y : Nibble) : (s.skipIf c).reg y = s.reg y := rfl
@[simp] theorem State.skipIf_byteAt (c : Bool) (i : Nat) : (s.skipIf c).byteAt i = s.byteAt i := rfl
@[simp] theorem State.skipIf_dataAddr (c : Bool) (k : Nat) : (s.skipIf c).dataAddr k = s.dataAddr k := rfl

/-! `State.raise` -/

@[simp] theorem State.raise_V (k : FaultKind) : (s.raise k).V = s.V := rfl
@[simp] theorem State.raise_I (k : FaultKind) : (s.raise k).I = s.I := rfl
@[simp] theorem State.raise_pc (k : FaultKind) : (s.raise k).pc = s.pc := rfl
@[simp] theorem State.raise_stack (k : FaultKind) : (s.raise k).stack = s.stack := rfl
@[simp] theorem State.raise_sp (k : FaultKind) : (s.raise k).sp = s.sp := rfl
@[simp] theorem State.raise_DT (k : FaultKind) : (s.raise k).DT = s.DT := rfl
@[simp] theorem State.raise_ST (k : FaultKind) : (s.raise k).ST = s.ST := rfl
@[simp] theorem State.raise_fb (k : FaultKind) : (s.raise k).fb = s.fb := rfl
@[simp] theorem State.raise_draw (k : FaultKind) : (s.raise k).draw = s.draw := rfl
@[simp] theorem State.raise_mem (k : FaultKind) : (s.raise k).mem = s.mem := rfl
@[simp] theorem State.raise_rng (k : FaultKind) : (s.raise k).rng = s.rng := rfl
@[simp] theorem State.raise_status (k : FaultKind) : (s.raise k).status = .faulted { kind := k, pc := s.pc } := rfl
@[simp] theorem State.raise_params (k : FaultKind) : (s.raise k).params = s.params := rfl
@[simp] theorem State.raise_draws (k : FaultKind) : (s.raise k).draws = s.draws := rfl
@[simp] theorem State.raise_agenda (k : FaultKind) : (s.raise k).agenda = s.agenda := rfl
@[simp] theorem State.raise_reply (k : FaultKind) : (s.raise k).reply = s.reply := rfl
@[simp] theorem State.raise_reg (k : FaultKind) (y : Nibble) : (s.raise k).reg y = s.reg y := rfl
@[simp] theorem State.raise_byteAt (k : FaultKind) (i : Nat) : (s.raise k).byteAt i = s.byteAt i := rfl
@[simp] theorem State.raise_dataAddr (k : FaultKind) (j : Nat) : (s.raise k).dataAddr j = s.dataAddr j := rfl

/-! `State.dropMove` -/

@[simp] theorem State.dropMove_V : (s.dropMove).V = s.V := rfl
@[simp] theorem State.dropMove_I : (s.dropMove).I = s.I := rfl
@[simp] theorem State.dropMove_pc : (s.dropMove).pc = s.pc := rfl
@[simp] theorem State.dropMove_stack : (s.dropMove).stack = s.stack := rfl
@[simp] theorem State.dropMove_sp : (s.dropMove).sp = s.sp := rfl
@[simp] theorem State.dropMove_DT : (s.dropMove).DT = s.DT := rfl
@[simp] theorem State.dropMove_ST : (s.dropMove).ST = s.ST := rfl
@[simp] theorem State.dropMove_fb : (s.dropMove).fb = s.fb := rfl
@[simp] theorem State.dropMove_draw : (s.dropMove).draw = s.draw := rfl
@[simp] theorem State.dropMove_mem : (s.dropMove).mem = s.mem := rfl
@[simp] theorem State.dropMove_rng : (s.dropMove).rng = s.rng := rfl
@[simp] theorem State.dropMove_status : (s.dropMove).status = s.status := rfl
@[simp] theorem State.dropMove_params : (s.dropMove).params = s.params := rfl
@[simp] theorem State.dropMove_draws : (s.dropMove).draws = s.draws := rfl
@[simp] theorem State.dropMove_agenda : (s.dropMove).agenda = s.agenda.tail := rfl
@[simp] theorem State.dropMove_reply : (s.dropMove).reply = s.reply := rfl
@[simp] theorem State.dropMove_reg (y : Nibble) : (s.dropMove).reg y = s.reg y := rfl
@[simp] theorem State.dropMove_byteAt (i : Nat) : (s.dropMove).byteAt i = s.byteAt i := rfl
@[simp] theorem State.dropMove_dataAddr (k : Nat) : (s.dropMove).dataAddr k = s.dataAddr k := rfl

/-! What `State.residue` keeps: the status, the parameters and the host's side. -/

@[simp] theorem State.residue_status : s.residue.status = s.status := rfl
@[simp] theorem State.residue_params : s.residue.params = s.params := rfl
@[simp] theorem State.residue_agenda : s.residue.agenda = s.agenda := rfl
@[simp] theorem State.residue_reply : s.residue.reply = s.reply := rfl
@[simp] theorem State.residue_rng : s.residue.rng = s.rng := rfl
@[simp] theorem State.residue_draws : s.residue.draws = s.draws + 1 := rfl
@[simp] theorem State.residue_mem :
    s.residue.mem = Memory.ofFn s.params.font (Config.residueMem s.draws) := by
  simp only [State.residue]

/-! The registers after a write (R22, R23). -/

@[simp] theorem State.setReg_reg_same (x : Nibble) (v : Byte) : (s.setReg x v).reg x = v := by
  simp [State.reg]

theorem State.setReg_reg_of_ne {x y : Nibble} (v : Byte) (h : y ≠ x) : (s.setReg x v).reg y = s.reg y := by
  have h' : x.toNat ≠ y.toNat := fun e => h (BitVec.eq_of_toNat_eq e.symm)
  simp [State.reg, Vector.getElem_set_ne, h']

theorem State.setReg_reg (x y : Nibble) (v : Byte) :
    (s.setReg x v).reg y = if y = x then v else s.reg y := by
  split
  · subst_vars; simp
  · exact State.setReg_reg_of_ne s v ‹_›

/-- Two states' registers agree when each register reads the same. -/
theorem State.V_ext {s t : State} (h : ∀ r : Nibble, s.reg r = t.reg r) : s.V = t.V := by
  ext i hi
  have := h (BitVec.ofNat 4 i)
  simp only [State.reg, BitVec.toNat_ofNat, Nat.mod_eq_of_lt (show i < 2 ^ 4 from hi)] at this
  rw [this]

end Sys2Proof.Machine
end

