-- ==== Sys2Proof/Laws/Ops.lean ====
section
/-! SUPPORT. What each shared operation can do, said once. -/

namespace Sys2Proof.Machine

open Config

/-! ## One byte -/

theorem State.memRead_ok {s : State} {a : Nat} (h : a < memSize) : s.memRead a = .ok (s.byteAt a) := by
  simp [State.memRead, h]

theorem State.memRead_error {s : State} {a : Nat} (h : memSize ≤ a) : s.memRead a = .error a := by
  simp [State.memRead, Nat.not_lt.2 h]

theorem State.memWrite_ok {s : State} {a : Nat} (h : a < memSize) (v : Byte) :
    s.memWrite a v = .ok (s.setMem (Memory.setByte s.params.font s.mem a v)) := by
  simp [State.memWrite, h]

theorem State.memWrite_error {s : State} {a : Nat} (h : memSize ≤ a) (v : Byte) :
    s.memWrite a v = .error a := by
  simp [State.memWrite, Nat.not_lt.2 h]

/-- A write of one byte: that byte, and no other. -/
theorem State.setMem_setByte_byteAt (s : State) (a b : Nat) (v : Byte) :
    (s.setMem (Memory.setByte s.params.font s.mem a v)).byteAt b = if b = a then v else s.byteAt b :=
  Memory.byteAt_setByte _ _ _ _ _

/-! ## Several bytes -/

/-- Bytes in range are read as they stand. -/
theorem State.readBytes_ok {s : State} {a n : Nat} (h : a + n ≤ memSize) :
    s.readBytes a n = .ok ((List.range n).map fun k => s.byteAt (a + k)) := by
  induction n generalizing a with
  | zero => rfl
  | succ n ih =>
    rw [State.readBytes, State.memRead_ok (by omega), ih (by omega)]
    simp [List.range_succ_eq_map, Function.comp_def, Nat.add_assoc, Nat.add_comm 1]

/-- Reading past the end gives the first address out of range. -/
theorem State.readBytes_error {s : State} {a n : Nat} (hn : 0 < n) (h : memSize < a + n) :
    s.readBytes a n = .error (max a memSize) := by
  induction n generalizing a with
  | zero => omega
  | succ n ih =>
    by_cases ha : a < memSize
    · rw [State.readBytes, State.memRead_ok ha, ih (by omega) (by omega)]
      simp only [Except.error.injEq]; omega
    · rw [State.readBytes, State.memRead_error (by omega)]
      simp only [Except.error.injEq]; omega

/-- Bytes in range are written: the result differs from the state in memory alone, each address written reads its
byte, every other reads as before, and the canonical form is kept. -/
theorem State.writeBytes_ok {s : State} {a : Nat} {bytes : List Byte} (h : a + bytes.length ≤ memSize) :
    ∃ m, s.writeBytes a bytes = .ok (s.setMem m) ∧
      (∀ b, (s.setMem m).byteAt b = if a ≤ b then (bytes[b - a]?).getD (s.byteAt b) else s.byteAt b) ∧
      (s.memWf → (s.setMem m).memWf) := by
  induction bytes generalizing s a with
  | nil => exact ⟨s.mem, rfl, fun b => by simp; rfl, id⟩
  | cons v vs ih =>
    simp only [List.length_cons] at h
    obtain ⟨m, hm, hb, hw⟩ := ih (s := s.setMem (Memory.setByte s.params.font s.mem a v)) (a := a + 1) (by omega)
    refine ⟨m, by rw [State.writeBytes, State.memWrite_ok (by omega)]; exact hm, fun b => ?_, fun hs => ?_⟩
    · have := hb b
      rw [State.setMem_setByte_byteAt] at this
      refine (show (s.setMem m).byteAt b = _ from this).trans ?_
      by_cases hab : b = a
      · subst hab; simp
      · by_cases hlt : a ≤ b
        · obtain ⟨k, rfl⟩ : ∃ k, b = a + 1 + k := ⟨b - (a + 1), by omega⟩
          have h1 : a + 1 + k - a = k + 1 := by omega
          simp [hlt, h1, hab]
        · have : ¬ a + 1 ≤ b := by omega
          simp [hlt, this, hab]
    · exact hw (Memory.wf_setByte hs (by omega) v)

/-- Writing past the end gives the first address out of range. -/
theorem State.writeBytes_error {s : State} {a : Nat} {bytes : List Byte} (hn : bytes ≠ [])
    (h : memSize < a + bytes.length) : s.writeBytes a bytes = .error (max a memSize) := by
  induction bytes generalizing s a with
  | nil => exact absurd rfl hn
  | cons v vs ih =>
    simp only [List.length_cons] at h
    by_cases ha : a < memSize
    · rw [State.writeBytes, State.memWrite_ok ha]
      have hvs : vs ≠ [] := by rintro rfl; simp at h; omega
      show State.writeBytes _ (a + 1) vs = _
      rw [ih hvs (by omega)]
      simp only [Except.error.injEq]; omega
    · rw [State.writeBytes, State.memWrite_error (by omega)]
      simp only [Except.error.injEq]; omega

/-! ## The fetch (R55) -/

/-- What a fetch answers, by where `pc` lies. -/
theorem State.fetch_cases (s : State) :
    (s.pc.toNat + 1 < memSize ∧ s.fetch = .ok (wordOfBytes (s.byteAt s.pc.toNat) (s.byteAt (s.pc.toNat + 1)))) ∨
    (s.pc.toNat + 1 = memSize ∧ s.fetch = .error memSize) ∨
    (memSize ≤ s.pc.toNat ∧ s.fetch = .error s.pc.toNat) := by
  by_cases h1 : s.pc.toNat < memSize
  · by_cases h2 : s.pc.toNat + 1 < memSize
    · exact .inl ⟨h2, by simp [State.fetch, State.memRead_ok h1, State.memRead_ok h2]⟩
    · have : s.pc.toNat + 1 = memSize := by omega
      exact .inr (.inl ⟨this, by
        simp [State.fetch, State.memRead_ok h1, State.memRead_error (Nat.le_refl memSize), this]⟩)
  · exact .inr (.inr ⟨by omega, by simp [State.fetch, State.memRead, h1]⟩)

/-- The fetch reads `pc`, the memory and the font, and nothing else. -/
theorem State.fetch_congr {s t : State} (hp : t.pc = s.pc) (hm : ∀ a, t.byteAt a = s.byteAt a) :
    t.fetch = s.fetch := by
  simp [State.fetch, State.memRead, hp, hm]

@[simp] theorem State.dropMove_fetch (s : State) : s.dropMove.fetch = s.fetch :=
  State.fetch_congr rfl fun _ => rfl

/-! ## The stack (R29) -/

theorem State.push_of_lt {s : State} (h : s.sp.val < 16) (v : Word) : s.push v = some (s.pushed v h) := by
  simp [State.push, h]

theorem State.push_full {s : State} (h : s.sp.val = 16) (v : Word) : s.push v = none := by
  simp [State.push, h]

theorem State.pop_of_pos {s : State} (h : 0 < s.sp.val) :
    s.pop = some (s.setSp ⟨s.sp.val - 1, by omega⟩, s.stack[s.sp.val - 1]'(by omega)) := by
  simp [State.pop, h]

theorem State.pop_empty {s : State} (h : s.sp.val = 0) : s.pop = none := by
  simp [State.pop, h]

/-! ## Faults (R222) -/

/-- A data fault records the address and its instruction; the parameters and the host's side stay, and the memory,
whatever it holds, is canonical. -/
theorem State.raiseData_spec (s : State) (a : Nat) :
    (s.raiseData a).status = .faulted { kind := .memoryOutOfRange a, pc := s.pc } ∧
    (s.raiseData a).params = s.params ∧ (s.raiseData a).agenda = s.agenda ∧
    (s.raiseData a).reply = s.reply ∧ (s.raiseData a).memWf :=
  ⟨rfl, rfl, rfl, rfl, by
    rw [State.memWf, State.raiseData, State.setStatus_mem, State.residue_mem]
    exact Memory.wf_ofFn _ _⟩

/-! ## Storing at `I` (R160, R164, R165) -/

/-- In range: only the bytes stored and `pc` change. -/
theorem State.storeAtI_ok {s : State} {bytes : List Byte} (h : s.I.toNat + bytes.length ≤ memSize) :
    ∃ m, s.storeAtI bytes = (s.setMem m).advance ∧
      (∀ b, (s.setMem m).byteAt b =
        if s.I.toNat ≤ b then (bytes[b - s.I.toNat]?).getD (s.byteAt b) else s.byteAt b) ∧
      (s.memWf → (s.setMem m).memWf) := by
  obtain ⟨m, hm, hb, hw⟩ := State.writeBytes_ok (s := s) (a := s.dataAddr 0) (bytes := bytes) h
  exact ⟨m, by rw [State.storeAtI, hm], hb, hw⟩

/-- Out of range: the first address past the end faults. -/
theorem State.storeAtI_error {s : State} {bytes : List Byte} (hn : bytes ≠ [])
    (h : memSize < s.I.toNat + bytes.length) : s.storeAtI bytes = s.raiseData (max s.I.toNat memSize) := by
  have : s.writeBytes (s.dataAddr 0) bytes = .error (max s.I.toNat memSize) := State.writeBytes_error hn h
  rw [State.storeAtI, this]

/-! ## The ALU forms (R10, R130) -/

/-- Only `V[X]` and `pc` change. -/
theorem State.aluPlain_spec (s : State) (x y : Nibble) (f : Byte → Byte → Byte) :
    s.aluPlain x y f = { s with V := (s.aluPlain x y f).V, pc := s.pc + 2 } ∧
    ∀ r, (s.aluPlain x y f).reg r = if r = x then f (s.reg x) (s.reg y) else s.reg r :=
  ⟨rfl, fun r => State.setReg_reg s x r _⟩

/-- Only `V[X]`, `V[0xF]` and `pc` change; the result reads the registers as the flag's write left them. -/
theorem State.aluFlagged_spec (s : State) (x y : Nibble) (flag f : Byte → Byte → Byte) :
    s.aluFlagged x y flag f = { s with V := (s.aluFlagged x y flag f).V, pc := s.pc + 2 } ∧
    ∀ r, (s.aluFlagged x y flag f).reg r =
      if r = x then
        f (if x = flagReg then flag (s.reg x) (s.reg y) else s.reg x)
          (if y = flagReg then flag (s.reg x) (s.reg y) else s.reg y)
      else if r = flagReg then flag (s.reg x) (s.reg y) else s.reg r := by
  refine ⟨rfl, fun r => ?_⟩
  rw [State.aluFlagged, (State.aluPlain_spec _ x y f).2 r]
  simp only [State.setReg_reg]

/-! ## Loading registers (R166) -/

/-- The leading registers take the bytes, the others keep theirs. -/
theorem withLeading_reg (s : State) (bytes : List Byte) (r : Nibble) :
    (s.setV (withLeading s.V bytes)).reg r = (bytes[r.toNat]?).getD (s.reg r) := by
  simp [State.reg, State.setV, withLeading]

theorem State.regsTo_length (s : State) (x : Nibble) : (s.regsTo x).length = x.toNat + 1 := by
  have := x.isLt
  simp only [State.regsTo, List.length_take, Vector.length_toList]; omega

theorem State.regsTo_get (s : State) (x : Nibble) (r : Nibble) (h : r.toNat ≤ x.toNat) :
    (s.regsTo x)[r.toNat]? = some (s.reg r) := by
  have hr := r.isLt
  simp only [State.regsTo, State.reg]
  rw [List.getElem?_take_of_lt (by omega)]
  simp

/-! ## The keys (R201, R205) -/

/-- A key query above 15 faults with nothing changed; else it skips by the answer. -/
theorem State.skipOnKey_spec (s : State) (x : Nibble) (wanted : Bool) :
    (15 < (s.reg x).toNat ∧ s.skipOnKey x wanted = s.raise (.keyIndexOutOfRange (s.reg x))) ∨
    ((s.reg x).toNat ≤ 15 ∧ s.skipOnKey x wanted =
      s.drawnInput.skipIf (keyAnswer s.draws ((s.reg x).setWidth 4) == wanted)) := by
  by_cases h : 15 < (s.reg x).toNat
  · exact .inl ⟨h, by simp [State.skipOnKey, h]⟩
  · exact .inr ⟨by omega, by simp [State.skipOnKey, h]⟩

/-- A free choice is one of the keys given; one is made exactly when there is one. -/
theorem pickAny_spec (n : Nat) (keys : List Nibble) :
    (keys = [] ∧ pickAny n keys = none) ∨ ∃ k ∈ keys, pickAny n keys = some k := by
  by_cases h : keys = []
  · exact .inl ⟨h, by simp [pickAny, h]⟩
  · have hl : keyPick n % keys.length < keys.length := Nat.mod_lt _ (List.length_pos_of_ne_nil h)
    exact .inr ⟨keys[keyPick n % keys.length], List.getElem_mem hl, by simp [pickAny, hl]⟩

/-- Whatever `FX0A_PICK` is, a key picked is one of the keys given; one is picked exactly when there is one. -/
theorem pickKey_spec (pick : Fx0aPick) (n : Nat) (keys : List Nibble) :
    (keys = [] ∧ pickKey pick n keys = none) ∨ ∃ k ∈ keys, pickKey pick n keys = some k := by
  cases pick with
  | any => exact pickAny_spec n keys
  | first order =>
    cases hf : order.find? keys.contains with
    | none => simpa only [pickKey, hf, Option.none_or] using pickAny_spec n keys
    | some k => exact .inr ⟨k, by simpa using List.find?_some hf, by rw [pickKey, hf]; rfl⟩

/-- A fixed scan order picks the key that stands first in it. -/
theorem pickKey_first {order keys : List Nibble} {k : Nibble} (h : order.find? keys.contains = some k) (n : Nat) :
    pickKey (.first order) n keys = some k := by
  rw [pickKey, h]; rfl

theorem mem_allKeys (k : Nibble) : k ∈ allKeys := by
  refine List.mem_map.2 ⟨k.toNat, List.mem_range.2 k.isLt, by simp⟩

/-- A key is among those pressed exactly when the answer for it is yes. -/
theorem mem_pressedKeys {n : Nat} {k : Nibble} : k ∈ pressedKeys n ↔ keyAnswer n k = true := by
  simp [pressedKeys, mem_allKeys]

/-- `takeKey` changes at most `V[X]` and `pc`. -/
theorem State.takeKey_frame (s : State) (x : Nibble) (key : Option Nibble) :
    s.takeKey x key = { s with V := (s.takeKey x key).V, pc := (s.takeKey x key).pc } := by
  unfold State.takeKey
  split
  · rfl
  · split <;> rfl

/-! ## The host's moves (R230, R185, R250) -/

/-- A step is the host's next move (R240). -/
theorem step_eq (s : State) : step s = s.dropMove.hostMove s.nextMove := rfl

/-- A cycle of a running block: one of three. -/
theorem State.runCycle_cases (s : State) :
    (∃ a, s.fetch = .error a ∧ s.runCycle = .next (s.raise (.memoryOutOfRange a))) ∨
    (∃ w u, s.fetch = .ok w ∧ decode w = .unknown u ∧ s.runCycle = .next (s.raise (.unknownOpcode u))) ∨
    (∃ w i, s.fetch = .ok w ∧ decode w = .instr i ∧ s.runCycle = exec i s) := by
  unfold State.runCycle
  cases hf : s.fetch with
  | error a => exact .inl ⟨a, rfl, rfl⟩
  | ok w =>
    cases hd : decode w with
    | unknown u => exact .inr (.inl ⟨w, u, rfl, hd, by simp [hd]⟩)
    | instr i => exact .inr (.inr ⟨w, i, rfl, hd, by simp [hd]⟩)

/-- A load that fits: the reset state with the image, the parameters, the counters and the host's moves kept. -/
theorem State.load_ok {s : State} {bytes : List Byte} (h : imageFits s.params.programStart bytes = true) :
    s.load bytes =
      { State.resetWith s.params with
        mem := Memory.image s.params.font s.params.programStart.toNat bytes
        rng := s.rng
        draws := s.draws
        agenda := s.agenda
        reply := .loadOk } := by
  simp [State.load, h]

/-- A load that does not fit changes nothing but the reply. -/
theorem State.load_tooLarge {s : State} {bytes : List Byte} (h : imageFits s.params.programStart bytes = false) :
    s.load bytes = s.setReply .loadTooLarge := by
  simp [State.load, h]

theorem imageFits_iff (start : Addr) (bytes : List Byte) :
    imageFits start bytes = true ↔ start.toNat + bytes.length ≤ memSize := by
  have : start.toNat < memSize := start.isLt
  simp only [imageFits, decide_eq_true_eq]; omega

/-- The hand-off leaves everything but the draw-flag and the reply. -/
theorem State.takeFrame_frame (s : State) :
    s.takeFrame = { s with draw := false, reply := s.takeFrame.reply } := by
  unfold State.takeFrame
  split
  · rfl
  · have : s.draw = false := by simpa using ‹¬ s.draw = true›
    cases s; simp_all [State.setReply]

end Sys2Proof.Machine
end

