-- ==== Sys2Proof/Laws/Exec.lean ====
section
/-! SUPPORT. What each meaning with more than one outcome answers, and the fields of a word a row selects. -/

namespace Sys2Proof.Machine

open Config

theorem execRet_of_pos {s : State} (h : 0 < s.sp.val) :
    execRet s = .next ((s.setSp ⟨s.sp.val - 1, by omega⟩).setPc (s.stack[s.sp.val - 1]'(by omega))) := by
  rw [execRet, State.pop_of_pos h]

theorem execRet_empty {s : State} (h : s.sp.val = 0) : execRet s = .next (s.raise .stackUnderflow) := by
  rw [execRet, State.pop_empty h]

theorem execCall_of_lt {s : State} (h : s.sp.val < 16) (nnn : Addr) :
    execCall nnn s = .next ((s.pushed (s.pc + 2) h).setPc (zextAddr nnn)) := by
  rw [execCall, State.push_of_lt h]

theorem execCall_full {s : State} (h : s.sp.val = 16) (nnn : Addr) :
    execCall nnn s = .next (s.raise .stackOverflow) := by
  rw [execCall, State.push_full h]

@[simp] theorem State.storedBytes_ldBVx (s : State) (x : Nibble) : s.storedBytes (.ldBVx x) = bcdDigits (s.reg x) := rfl

@[simp] theorem State.storedBytes_storeRegs (s : State) (x : Nibble) : s.storedBytes (.storeRegs x) = s.regsTo x := rfl

@[simp] theorem bcdDigits_length (v : Byte) : (bcdDigits v).length = 3 := rfl

/-- A store at `I` in range: `pc` advances, and every address reads the byte the statements say. -/
theorem State.storeAtI_byteAfterStore {s : State} {i : Instr}
    (h : s.I.toNat + (s.storedBytes i).length ≤ memSize) :
    (s.storeAtI (s.storedBytes i)).pc = s.pc + 2 ∧
      ∀ a, (s.storeAtI (s.storedBytes i)).byteAt a = s.byteAfterStore i a := by
  obtain ⟨m, hm, hb, -⟩ := State.storeAtI_ok h
  rw [hm]
  exact ⟨rfl, hb⟩

theorem execLoadRegs_ok {s : State} {x : Nibble} (h : s.I.toNat + (x.toNat + 1) ≤ memSize) :
    execLoadRegs x s = .next (s.setV (withLeading s.V
      ((List.range (x.toNat + 1)).map fun k => s.byteAt (s.I.toNat + k)))).advance := by
  have := State.readBytes_ok (s := s) (a := s.dataAddr 0) (n := x.toNat + 1) h
  rw [execLoadRegs, this]; rfl

theorem execLoadRegs_error {s : State} {x : Nibble} (h : memSize < s.I.toNat + (x.toNat + 1)) :
    execLoadRegs x s = .next (s.raiseData (max s.I.toNat memSize)) := by
  have : s.readBytes (s.dataAddr 0) (x.toNat + 1) = .error (max s.I.toNat memSize) :=
    State.readBytes_error (by omega) h
  rw [execLoadRegs, this]

/-- A drawing whose sprite lies in memory, or has no row. -/
theorem execDrw_ok {s : State} {x y n : Nibble} (h : s.I.toNat + n.toNat ≤ memSize ∨ n = 0) :
    ∃ bytes, bytes = (List.range n.toNat).map (fun k => s.byteAt (s.I.toNat + k)) ∧
      execDrw x y n s = .next
        ((s.setReg flagReg (flagByte (drawSprite s.fb (s.reg x) (s.reg y) bytes).hit)).paint
          (drawSprite s.fb (s.reg x) (s.reg y) bytes).fb).advance := by
  refine ⟨_, rfl, ?_⟩
  have : s.readBytes (s.dataAddr 0) n.toNat = .ok ((List.range n.toNat).map fun k => s.byteAt (s.I.toNat + k)) := by
    rcases h with h | rfl
    · exact State.readBytes_ok (a := s.dataAddr 0) h
    · rfl
  rw [execDrw, this]

theorem execDrw_error {s : State} {x y n : Nibble} (hn : n ≠ 0) (h : memSize < s.I.toNat + n.toNat) :
    execDrw x y n s = .next (s.raiseData (max s.I.toNat memSize)) := by
  have hpos : 0 < n.toNat := Nat.pos_of_ne_zero fun e => hn (BitVec.eq_of_toNat_eq (by simpa using e))
  have : s.readBytes (s.dataAddr 0) n.toNat = .error (max s.I.toNat memSize) := State.readBytes_error hpos h
  rw [execDrw, this]

end Sys2Proof.Machine

namespace Sys2Proof

/-- A word selected by its family. -/
theorem fieldF_of_mask {w p : Word} (h : w &&& 0xF000 = p) : fieldF w = fieldF p := by
  have := congrArg fieldF h
  rwa [fieldF_and, show fieldF 0xF000 = 15#4 by decide, and_nibbleOnes] at this

/-- A word selected by its family and `N`. -/
theorem fieldFN_of_mask {w p : Word} (h : w &&& 0xF00F = p) : fieldF w = fieldF p ∧ fieldN w = fieldN p := by
  have h1 := congrArg fieldF h
  have h2 := congrArg fieldN h
  rw [fieldF_and, show fieldF 0xF00F = 15#4 by decide, and_nibbleOnes] at h1
  rw [fieldN_and, show fieldN 0xF00F = 15#4 by decide, and_nibbleOnes] at h2
  exact ⟨h1, h2⟩

/-- A word selected by its family and `NN`. -/
theorem fieldFNN_of_mask {w p : Word} (h : w &&& 0xF0FF = p) : fieldF w = fieldF p ∧ fieldNN w = fieldNN p := by
  have h1 := congrArg fieldF h
  have h2 := congrArg fieldNN h
  rw [fieldF_and, show fieldF 0xF0FF = 15#4 by decide, and_nibbleOnes] at h1
  rw [fieldNN_and, show fieldNN 0xF0FF = 255#8 by decide, and_byteOnes] at h2
  exact ⟨h1, h2⟩

end Sys2Proof
end

