-- ==== Sys2Proof/Laws/PerInstr.lean ====
section
/-! SUPPORT. Statements about every instruction as syntax, one lemma per constructor.
EncodeRow: the encoder's word is the canonical spelling of the instruction's own row of the opcode map (R86). -/

namespace Sys2Proof.Laws.EncodeRow

open Sys2Proof

/-- The word the encoder gives is the canonical spelling of the instruction's row. -/
def Statement (i : Instr) : Prop := i.row.spells (encode i) = true

theorem cls : Statement .cls := by unfold Statement; decide

theorem ret : Statement .ret := by unfold Statement; decide

theorem jp (nnn : Addr) : Statement (.jp nnn) := by
  simp only [Statement, Instr.row, OpRow.spells, encode, wordNNN_mask_F]; rfl

theorem call (nnn : Addr) : Statement (.call nnn) := by
  simp only [Statement, Instr.row, OpRow.spells, encode, wordNNN_mask_F]; rfl

theorem seImm (x : Nibble) (nn : Byte) : Statement (.seImm x nn) := by
  simp only [Statement, Instr.row, OpRow.spells, encode, wordXNN_mask_F]; rfl

theorem sneImm (x : Nibble) (nn : Byte) : Statement (.sneImm x nn) := by
  simp only [Statement, Instr.row, OpRow.spells, encode, wordXNN_mask_F]; rfl

theorem seReg (x y : Nibble) : Statement (.seReg x y) := by
  simp only [Statement, Instr.row, OpRow.spells, encode, wordXYN_mask_FN]; rfl

theorem ldImm (x : Nibble) (nn : Byte) : Statement (.ldImm x nn) := by
  simp only [Statement, Instr.row, OpRow.spells, encode, wordXNN_mask_F]; rfl

theorem addImm (x : Nibble) (nn : Byte) : Statement (.addImm x nn) := by
  simp only [Statement, Instr.row, OpRow.spells, encode, wordXNN_mask_F]; rfl

theorem ldReg (x y : Nibble) : Statement (.ldReg x y) := by
  simp only [Statement, Instr.row, OpRow.spells, encode, wordXYN_mask_FN]; rfl

theorem orReg (x y : Nibble) : Statement (.orReg x y) := by
  simp only [Statement, Instr.row, OpRow.spells, encode, wordXYN_mask_FN]; rfl

theorem andReg (x y : Nibble) : Statement (.andReg x y) := by
  simp only [Statement, Instr.row, OpRow.spells, encode, wordXYN_mask_FN]; rfl

theorem xorReg (x y : Nibble) : Statement (.xorReg x y) := by
  simp only [Statement, Instr.row, OpRow.spells, encode, wordXYN_mask_FN]; rfl

theorem addReg (x y : Nibble) : Statement (.addReg x y) := by
  simp only [Statement, Instr.row, OpRow.spells, encode, wordXYN_mask_FN]; rfl

theorem subReg (x y : Nibble) : Statement (.subReg x y) := by
  simp only [Statement, Instr.row, OpRow.spells, encode, wordXYN_mask_FN]; rfl

theorem shr (x y : Nibble) : Statement (.shr x y) := by
  simp only [Statement, Instr.row, OpRow.spells, encode, wordXYN_mask_FN]; rfl

theorem subnReg (x y : Nibble) : Statement (.subnReg x y) := by
  simp only [Statement, Instr.row, OpRow.spells, encode, wordXYN_mask_FN]; rfl

theorem shl (x y : Nibble) : Statement (.shl x y) := by
  simp only [Statement, Instr.row, OpRow.spells, encode, wordXYN_mask_FN]; rfl

theorem sneReg (x y : Nibble) : Statement (.sneReg x y) := by
  simp only [Statement, Instr.row, OpRow.spells, encode, wordXYN_mask_FN]; rfl

theorem ldI (nnn : Addr) : Statement (.ldI nnn) := by
  simp only [Statement, Instr.row, OpRow.spells, encode, wordNNN_mask_F]; rfl

theorem jpV0 (nnn : Addr) : Statement (.jpV0 nnn) := by
  simp only [Statement, Instr.row, OpRow.spells, encode, wordNNN_mask_F]; rfl

theorem rnd (x : Nibble) (nn : Byte) : Statement (.rnd x nn) := by
  simp only [Statement, Instr.row, OpRow.spells, encode, wordXNN_mask_F]; rfl

theorem drw (x y n : Nibble) : Statement (.drw x y n) := by
  simp only [Statement, Instr.row, OpRow.spells, encode, wordXYN_mask_F]; rfl

theorem skp (x : Nibble) : Statement (.skp x) := by
  simp only [Statement, Instr.row, OpRow.spells, encode, wordXNN_mask_FNN]; rfl

theorem sknp (x : Nibble) : Statement (.sknp x) := by
  simp only [Statement, Instr.row, OpRow.spells, encode, wordXNN_mask_FNN]; rfl

theorem ldVxDt (x : Nibble) : Statement (.ldVxDt x) := by
  simp only [Statement, Instr.row, OpRow.spells, encode, wordXNN_mask_FNN]; rfl

theorem ldVxK (x : Nibble) : Statement (.ldVxK x) := by
  simp only [Statement, Instr.row, OpRow.spells, encode, wordXNN_mask_FNN]; rfl

theorem ldDtVx (x : Nibble) : Statement (.ldDtVx x) := by
  simp only [Statement, Instr.row, OpRow.spells, encode, wordXNN_mask_FNN]; rfl

theorem ldStVx (x : Nibble) : Statement (.ldStVx x) := by
  simp only [Statement, Instr.row, OpRow.spells, encode, wordXNN_mask_FNN]; rfl

theorem addIVx (x : Nibble) : Statement (.addIVx x) := by
  simp only [Statement, Instr.row, OpRow.spells, encode, wordXNN_mask_FNN]; rfl

theorem ldFVx (x : Nibble) : Statement (.ldFVx x) := by
  simp only [Statement, Instr.row, OpRow.spells, encode, wordXNN_mask_FNN]; rfl

theorem ldBVx (x : Nibble) : Statement (.ldBVx x) := by
  simp only [Statement, Instr.row, OpRow.spells, encode, wordXNN_mask_FNN]; rfl

theorem storeRegs (x : Nibble) : Statement (.storeRegs x) := by
  simp only [Statement, Instr.row, OpRow.spells, encode, wordXNN_mask_FNN]; rfl

theorem loadRegs (x : Nibble) : Statement (.loadRegs x) := by
  simp only [Statement, Instr.row, OpRow.spells, encode, wordXNN_mask_FNN]; rfl

end Sys2Proof.Laws.EncodeRow
end

