-- ==== Sys2Proof/Tests/Slice0.lean ====
section
/-! SUPPORT. Tests against the vectors of 95_test_vectors.md and the encodings of 30_encoding.md, and for each statement
a concrete input that meets its hypotheses. -/

namespace Sys2Proof.Tests

open Sys2Proof.Machine

/-! ## Small states -/

/-- The outcome is a next state with the property. -/
def holds (o : Host.Outcome State Fault Refusal) (p : State → Bool) : Bool :=
  match o with
  | .next t => p t
  | .fault _ => false
  | .refused _ => false

/-- The reset state with some registers set. -/
def regs (l : List (Nibble × Byte)) : State := l.foldl (fun s p => s.setReg p.1 p.2) State.reset

/-- A byte laid in memory. -/
def withByte (s : State) (a : Nat) (v : Byte) : State := s.setMem (Memory.setByte s.params.font s.mem a v)

/-- The reset state with the host's next move given. -/
def asked (m : HostMove) : State := State.reset.setAgenda [m]

/-- A faulted block: the record of vector S8. -/
def s8Record : FaultRecord := { kind := .unknownOpcode 0x0001, pc := 0x200 }

/-- A block that has faulted. -/
def broken : State := State.reset.setStatus (.faulted s8Record)

/-! ## WellFormed: what each check refuses (R87, R85, R251) -/

theorem test_knownWord_refuses : knownWord 0x0001 = false ∧ knownWord 0x8128 = false ∧ knownWord 0xF175 = false := by
  decide

theorem test_canonicalWord_refuses :
    canonicalWord 0x0120 = false ∧ canonicalWord 0x5121 = false ∧ canonicalWord 0x9121 = false := by decide

theorem test_canonicalWord_accepts : canonicalWord 0x00E0 = true ∧ canonicalWord 0x5120 = true := by decide

theorem test_imageFits_refuses_3585 : imageFits 0x200 (List.replicate 3585 0) = false := by
  rw [imageFits, List.length_replicate]; decide

theorem test_imageFits_accepts_3584 : imageFits 0x200 (List.replicate 3584 0) = true := by
  rw [imageFits, List.length_replicate]; decide

theorem test_decodeBytes_refuses :
    decodeBytes [0x12] = .error .truncated ∧ decodeBytes [0x00, 0x01] = .error (.unknownWord 0x0001) := by
  constructor <;> rfl

/-! ## Decoding: one word for every instruction, written bit by bit from the patterns of R86 -/

theorem test_decode_flow :
    decode 0b0000_0000_1110_0000 = .instr .cls ∧ decode 0b0000_0000_1110_1110 = .instr .ret ∧
    decode 0b0001_1010_1011_1100 = .instr (.jp 0xABC) ∧ decode 0b0010_0100_0000_0001 = .instr (.call 0x401) ∧
    decode 0b0011_0011_0100_0010 = .instr (.seImm 3 0x42) ∧ decode 0b0100_0011_0100_0010 = .instr (.sneImm 3 0x42) ∧
    decode 0b0101_0001_0010_0000 = .instr (.seReg 1 2) ∧ decode 0b1001_0001_0010_0000 = .instr (.sneReg 1 2) ∧
    decode 0b1011_0101_0000_0011 = .instr (.jpV0 0x503) := by decide

theorem test_decode_alu :
    decode 0b0110_1010_0100_0010 = .instr (.ldImm 0xA 0x42) ∧ decode 0b0111_0001_1111_1110 = .instr (.addImm 1 0xFE) ∧
    decode 0b1000_0001_0010_0000 = .instr (.ldReg 1 2) ∧ decode 0b1000_0001_0010_0001 = .instr (.orReg 1 2) ∧
    decode 0b1000_0001_0010_0010 = .instr (.andReg 1 2) ∧ decode 0b1000_0001_0010_0011 = .instr (.xorReg 1 2) ∧
    decode 0b1000_0001_0010_0100 = .instr (.addReg 1 2) ∧ decode 0b1000_0001_0010_0101 = .instr (.subReg 1 2) ∧
    decode 0b1000_0001_0010_0110 = .instr (.shr 1 2) ∧ decode 0b1000_0001_0010_0111 = .instr (.subnReg 1 2) ∧
    decode 0b1000_0001_0010_1110 = .instr (.shl 1 2) ∧ decode 0b1100_0011_0000_1111 = .instr (.rnd 3 0x0F) := by decide

theorem test_decode_index_display :
    decode 0b1010_0001_0010_0011 = .instr (.ldI 0x123) ∧ decode 0b1111_0001_0001_1110 = .instr (.addIVx 1) ∧
    decode 0b1111_0001_0010_1001 = .instr (.ldFVx 1) ∧ decode 0b1111_0011_0011_0011 = .instr (.ldBVx 3) ∧
    decode 0b1111_0010_0101_0101 = .instr (.storeRegs 2) ∧ decode 0b1111_0010_0110_0101 = .instr (.loadRegs 2) ∧
    decode 0b1101_1010_1011_0101 = .instr (.drw 0xA 0xB 5) := by decide

theorem test_decode_keys_timers :
    decode 0b1110_0001_1001_1110 = .instr (.skp 1) ∧ decode 0b1110_0001_1010_0001 = .instr (.sknp 1) ∧
    decode 0b1111_0001_0000_0111 = .instr (.ldVxDt 1) ∧ decode 0b1111_0010_0000_1010 = .instr (.ldVxK 2) ∧
    decode 0b1111_0001_0001_0101 = .instr (.ldDtVx 1) ∧ decode 0b1111_0001_0001_1000 = .instr (.ldStVx 1) := by decide

/-- The unknown words of 95_test_vectors.md section 2.1. -/
theorem test_decode_unknown :
    decode 0x0001 = .unknown 0x0001 ∧ decode 0x00FF = .unknown 0x00FF ∧ decode 0x8128 = .unknown 0x8128 ∧
    decode 0x812F = .unknown 0x812F ∧ decode 0xE19F = .unknown 0xE19F ∧ decode 0xF100 = .unknown 0xF100 ∧
    decode 0xF130 = .unknown 0xF130 ∧ decode 0xF175 = .unknown 0xF175 := by decide

theorem test_decodeTableWord : decodeTableWord 16 0x00E0 = some .cls ∧ decodeTableWord 16 0x0001 = none := by
  constructor <;> rfl

/-! ## Flow control (95_test_vectors.md section 2.3) -/

theorem test_call_last_slot :
    holds (exec (.call 0x400) (State.reset.setSp 15)) fun t =>
      t.stack[15] == 0x202 && t.sp == 16 && t.pc == 0x400 := by decide

theorem test_call_overflow :
    holds (exec (.call 0x400) (State.reset.setSp 16)) fun t =>
      t.status == .faulted { kind := .stackOverflow, pc := 0x200 } && t.sp == 16 := by decide

/-- Vector S4. -/
theorem test_ret :
    holds (exec .ret ((State.reset.pushed 0x202 (by decide)).setPc 0x300)) fun t =>
      t.sp == 0 && t.pc == 0x202 && t.stack[0] == 0x202 := by decide

theorem test_ret_underflow :
    holds (exec .ret State.reset) fun t => t.status == .faulted { kind := .stackUnderflow, pc := 0x200 } := by decide

theorem test_jp : holds (exec (.jp 0xABC) State.reset) fun t => t.pc == 0xABC := by decide

theorem test_seImm :
    holds (exec (.seImm 3 0x42) (regs [(3, 0x42)])) (fun t => t.pc == 0x204) = true ∧
    holds (exec (.seImm 3 0x42) (regs [(3, 0x41)])) (fun t => t.pc == 0x202) = true := by decide

theorem test_sneImm :
    holds (exec (.sneImm 3 0x42) (regs [(3, 0x42)])) (fun t => t.pc == 0x202) = true ∧
    holds (exec (.sneImm 3 0x42) (regs [(3, 0x41)])) (fun t => t.pc == 0x204) = true := by decide

theorem test_seReg :
    holds (exec (.seReg 1 2) (regs [(1, 7), (2, 7)])) (fun t => t.pc == 0x204) = true ∧
    holds (exec (.seReg 1 2) (regs [(1, 7), (2, 8)])) (fun t => t.pc == 0x202) = true := by decide

theorem test_sneReg :
    holds (exec (.sneReg 1 2) (regs [(1, 7), (2, 7)])) (fun t => t.pc == 0x202) = true ∧
    holds (exec (.sneReg 1 2) (regs [(1, 7), (2, 8)])) (fun t => t.pc == 0x204) = true := by decide

theorem test_jpV0_uses_V0 :
    holds (exec (.jpV0 0x500) (regs [(0, 0x04), (5, 0x99)])) fun t => t.pc == 0x504 := by decide

theorem test_jpV0_no_wrap : holds (exec (.jpV0 0xFFF) (regs [(0, 0xFF)])) fun t => t.pc == 0x10FE := by decide

/-! ## Arithmetic (95_test_vectors.md section 2.4) -/

theorem test_ldImm : holds (exec (.ldImm 0xA 0x42) State.reset) fun t => t.reg 0xA == 0x42 && t.pc == 0x202 := by decide

theorem test_addImm_no_flag :
    holds (exec (.addImm 1 0xFF) (regs [(1, 0x01), (0xF, 0x07)])) fun t => t.reg 1 == 0 && t.reg 0xF == 7 := by decide

theorem test_ldReg : holds (exec (.ldReg 1 2) (regs [(1, 0x12), (2, 0x34)])) fun t => t.reg 1 == 0x34 := by decide

theorem test_orReg :
    holds (exec (.orReg 1 2) (regs [(1, 0xF0), (2, 0x0F), (0xF, 5)])) fun t => t.reg 1 == 0xFF && t.reg 0xF == 5 := by
  decide

theorem test_andReg : holds (exec (.andReg 1 2) (regs [(1, 0xF0), (2, 0x3C)])) fun t => t.reg 1 == 0x30 := by decide

theorem test_xorReg : holds (exec (.xorReg 1 2) (regs [(1, 0xFF), (2, 0x0F)])) fun t => t.reg 1 == 0xF0 := by decide

theorem test_addReg_carry :
    holds (exec (.addReg 1 2) (regs [(1, 0xFF), (2, 0x01)])) fun t => t.reg 1 == 0 && t.reg 0xF == 1 := by decide

theorem test_addReg_into_flag :
    holds (exec (.addReg 0xF 1) (regs [(0xF, 0xFF), (1, 0x01)])) fun t => t.reg 0xF == 2 := by decide

theorem test_subReg_borrow :
    holds (exec (.subReg 1 2) (regs [(1, 5), (2, 6)])) fun t => t.reg 1 == 0xFF && t.reg 0xF == 0 := by decide

theorem test_subReg_from_flag :
    holds (exec (.subReg 1 0xF) (regs [(1, 5), (0xF, 3)])) fun t => t.reg 1 == 4 && t.reg 0xF == 1 := by decide

theorem test_shr : holds (exec (.shr 1 2) (regs [(1, 0xFE), (0xF, 9)])) fun t => t.reg 1 == 0x7F && t.reg 0xF == 0 := by
  decide

theorem test_shr_flag : holds (exec (.shr 0xF 0) (regs [(0xF, 0x81)])) fun t => t.reg 0xF == 0 := by decide

theorem test_subnReg :
    holds (exec (.subnReg 1 2) (regs [(1, 6), (2, 5)])) fun t => t.reg 1 == 0xFF && t.reg 0xF == 0 := by decide

theorem test_subnReg_flag :
    holds (exec (.subnReg 0xF 1) (regs [(0xF, 3), (1, 5)])) fun t => t.reg 0xF == 4 := by decide

theorem test_shl : holds (exec (.shl 1 1) (regs [(1, 0xC1)])) fun t => t.reg 1 == 0x82 && t.reg 0xF == 1 := by decide

theorem test_shl_flag : holds (exec (.shl 0xF 0) (regs [(0xF, 0x81)])) fun t => t.reg 0xF == 2 := by decide

/-- `NN = 0` masks every byte to 0, and the draw is still taken. -/
theorem test_rnd_mask_zero :
    ∃ t, exec (.rnd 3 0x00) State.reset = .next t ∧ t.reg 3 = 0 ∧ t.rng = State.reset.rng + 1 :=
  ⟨_, rfl, by simp, rfl⟩

/-! ## Index register and memory (95_test_vectors.md section 2.5) -/

theorem test_ldI : holds (exec (.ldI 0x123) State.reset) fun t => t.I == 0x123 := by decide

theorem test_addIVx :
    holds (exec (.addIVx 1) ((regs [(1, 1)]).setI 0x0FFF)) (fun t => t.I == 0x1000) = true ∧
    holds (exec (.addIVx 1) ((regs [(1, 1)]).setI 0xFFFF)) (fun t => t.I == 0x0000) = true := by decide

theorem test_ldFVx : holds (exec (.ldFVx 0) (regs [(0, 0xFF)])) fun t => t.I == 0x4FB := by decide

/-- Vector S5: 157 is 1, 5, 7. -/
theorem test_ldBVx :
    holds (exec (.ldBVx 3) ((regs [(3, 0x9D)]).setI 0x300)) fun t =>
      t.byteAt 0x300 == 1 && t.byteAt 0x301 == 5 && t.byteAt 0x302 == 7 && t.I == 0x300 := by decide

theorem test_storeRegs :
    holds (exec (.storeRegs 2) ((regs [(0, 1), (1, 2), (2, 3), (3, 4)]).setI 0x300)) fun t =>
      t.byteAt 0x300 == 1 && t.byteAt 0x302 == 3 && t.byteAt 0x303 == 0 && t.I == 0x300 := by decide

/-- The font region is writable (D21). -/
theorem test_storeRegs_font :
    holds (exec (.storeRegs 0) ((regs [(0, 0xAB)]).setI 0x010)) fun t => t.byteAt 0x010 == 0xAB := by decide

/-- Registers read from the font region: glyph 0 is F0 90 90 90 F0. -/
theorem test_loadRegs :
    holds (exec (.loadRegs 1) State.reset) fun t => t.reg 0 == 0xF0 && t.reg 1 == 0x90 && t.reg 2 == 0 := by decide

theorem test_loadRegs_out_of_range :
    ∃ t, exec (.loadRegs 0) (State.reset.setI 0x1000) = .next t ∧
      t.status = .faulted { kind := .memoryOutOfRange 0x1000, pc := 0x200 } := ⟨_, rfl, rfl⟩

/-! ## Display (95_test_vectors.md section 2.6) -/

theorem test_cls :
    holds (exec .cls (State.reset.paint (Machine.Frame.toggle Machine.Frame.clear 3 4)).clearDraw) fun t =>
      t.draw && t.pc == 0x202 && !Machine.Frame.cell t.fb 3 4 := by decide

/-- Bit 7 is the leftmost column; both axes wrap: (70, 37) is (6, 5). -/
theorem test_drw_wraps :
    holds (exec (.drw 0 1 1) ((withByte (regs [(0, 70), (1, 37)]) 0x300 0x80).setI 0x300)) fun t =>
      Machine.Frame.cell t.fb 6 5 && !Machine.Frame.cell t.fb 7 5 && t.reg 0xF == 0 && t.draw := by decide

/-- A cell already set is cleared and reported; the column is read before VF is written (D5). -/
theorem test_drw_collision :
    holds (exec (.drw 0xF 1 1) (((withByte (regs [(0xF, 5)]) 0x300 0x80).setI 0x300).paint
      (Machine.Frame.toggle Machine.Frame.clear 5 0))) fun t =>
      !Machine.Frame.cell t.fb 5 0 && t.reg 0xF == 1 := by decide

/-! ## Timers and keys (95_test_vectors.md section 2.7) -/

theorem test_skp_out_of_range :
    holds (exec (.skp 1) (regs [(1, 16)])) fun t =>
      t.status == .faulted { kind := .keyIndexOutOfRange 16, pc := 0x200 } := by decide

theorem test_sknp_out_of_range :
    holds (exec (.sknp 1) (regs [(1, 0xFF)])) fun t =>
      t.status == .faulted { kind := .keyIndexOutOfRange 0xFF, pc := 0x200 } := by decide

theorem test_ldVxDt : holds (exec (.ldVxDt 1) (State.reset.setDT 0x3C)) fun t => t.reg 1 == 0x3C := by decide

theorem test_ldDtVx : holds (exec (.ldDtVx 1) (regs [(1, 0x20)])) fun t => t.DT == 0x20 && t.ST == 0 := by decide

theorem test_ldStVx :
    holds (exec (.ldStVx 1) (regs [(1, 0x20)])) (fun t => t.ST == 0x20 && t.soundActive) = true ∧
    holds (exec (.ldStVx 1) ((regs []).setST 5)) (fun t => t.ST == 0 && !t.soundActive) = true := by decide

/-- A scan leaves the registers it does not name, whichever keys are pressed. -/
theorem test_ldVxK_other_register :
    ∃ t, exec (.ldVxK 2) (regs [(3, 0x55)]) = .next t ∧ t.reg 3 = 0x55 := by
  refine ⟨_, rfl, ?_⟩
  cases pickKey (regs [(3, 0x55)]).params.fx0aPick (regs [(3, 0x55)]).draws (pressedKeys (regs [(3, 0x55)]).draws) with
  | none => rfl
  | some k => exact (State.setReg_reg _ _ _ _).trans rfl

/-- Keys 3 and 9 pressed: `any` gives one of the two; a fixed scan order gives the one it lists first. -/
theorem test_pickKey :
    (pickKey .any 0 [3, 9] = some 3 ∨ pickKey .any 0 [3, 9] = some 9) ∧
    pickKey (.first [15, 9, 3]) 0 [3, 9] = some 9 ∧ pickKey (.first [3, 9]) 0 [3, 9] = some 3 := by
  refine ⟨?_, rfl, rfl⟩
  rcases pickKey_spec .any 0 [3, 9] with ⟨h, -⟩ | ⟨k, hk, h⟩
  · cases h
  · simp only [List.mem_cons, List.not_mem_nil, or_false] at hk
    rcases hk with rfl | rfl
    · exact .inl h
    · exact .inr h

/-- Only the key answered for decides: the two skips never agree. -/
theorem test_skp_sknp :
    ∃ t u, exec (.skp 1) (regs [(1, 5)]) = .next t ∧ exec (.sknp 1) (regs [(1, 5)]) = .next u ∧
      (t.pc = 0x204 ∧ u.pc = 0x202 ∨ t.pc = 0x202 ∧ u.pc = 0x204) := by
  refine ⟨_, _, rfl, rfl, ?_⟩
  rcases State.skipOnKey_spec (regs [(1, 5)]) 1 true with ⟨h, -⟩ | ⟨-, h⟩
  · exact absurd h (by decide)
  rcases State.skipOnKey_spec (regs [(1, 5)]) 1 false with ⟨h', -⟩ | ⟨-, h'⟩
  · exact absurd h' (by decide)
  rw [h, h']
  cases Config.keyAnswer (regs [(1, 5)]).draws (((regs [(1, 5)]).reg 1).setWidth 4)
  · exact .inr (by decide)
  · exact .inl (by decide)

/-! ## The host's moves and whole steps (95_test_vectors.md sections 1, 2.2, 2.7, 2.8) -/

theorem test_tick :
    holds (step (((asked .tick).setDT 1).setST 0xFF)) fun t => t.DT == 0 && t.ST == 0xFE && t.pc == 0x200 := by decide

theorem test_tick_at_zero : holds (step (asked .tick)) fun t => t.DT == 0 && t.ST == 0 := by decide

/-- The word at pc=0x200 of an empty memory is 0000, a CLS. -/
theorem test_step_from_reset : holds (step State.reset) fun t => t.draw && t.pc == 0x202 := by decide

theorem test_step_placed_word :
    holds (step (State.reset.withFetchWord 16 0x612A)) fun t => t.reg 1 == 0x2A && t.pc == 0x202 := by decide

/-- pc=FFF: the first byte is read, the second address faults. -/
theorem test_fetch_fault :
    holds (step (State.reset.setPc 0xFFF)) fun t =>
      t.status == .faulted { kind := .memoryOutOfRange 0x1000, pc := 0xFFF } := by decide

/-- An odd pc is legal: 60 12 at 0x201. -/
theorem test_odd_pc :
    holds (step ((withByte (withByte State.reset 0x201 0x60) 0x202 0x12).setPc 0x201)) fun t =>
      t.reg 0 == 0x12 && t.pc == 0x203 := by decide

/-- Vector S8. -/
theorem test_unknown_opcode :
    holds (step (withByte State.reset 0x201 0x01)) fun t => t.status == .faulted s8Record && t.pc == 0x200 := by decide

theorem test_no_cycle_after_fault : step broken = .fault (.halted s8Record) := rfl

theorem test_takeFrame :
    holds (step ((asked .takeFrame).paint Machine.Frame.clear)) (fun t => !t.draw && t.reply == .frame Machine.Frame.clear)
      = true ∧
    holds (step (asked .takeFrame)) (fun t => t.reply == .noFrame) = true := by decide

/-- `Load([12, 00])`, also after a fault. -/
theorem test_load :
    holds (step (broken.setAgenda [.load [0x12, 0x00]])) fun t =>
      t.byteAt 0x200 == 0x12 && t.byteAt 0x201 == 0 && t.byteAt 0 == 0xF0 && t.pc == 0x200 &&
        t.status == .running && t.reply == .loadOk := by decide

/-! ## Witnesses: inputs that meet the hypotheses of each statement, clause by clause -/

/-- A machine that is asked for a `Tick` and then a `Cycle`, so that `Cycle` is not its next move. -/
def tickFirst : State := State.reset.setAgenda [.tick, .cycle]

/-- Sixteen addresses held. -/
def fullStack : State := State.reset.setSp 16

/-- The index register at an address. -/
def indexAt (a : Word) : State := State.reset.setI a

theorem witness_DontCareBitsAreIgnored :
    (fieldF 0x0120 = fieldF 0x00E0 ∧ fieldF 0x0120 = 0x0 ∧ fieldN 0x0120 = fieldN 0x00E0) ∧
    (fieldF 0x5121 = fieldF 0x5120 ∧ fieldF 0x5121 = 0x5 ∧ fieldX 0x5121 = fieldX 0x5120 ∧
      fieldY 0x5121 = fieldY 0x5120) ∧
    (fieldF 0x912F = fieldF 0x9120 ∧ fieldF 0x912F = 0x9 ∧ fieldX 0x912F = fieldX 0x9120 ∧
      fieldY 0x912F = fieldY 0x9120) := by decide

theorem witness_UnknownWordsByFamily :
    decode 0x0001 = .unknown 0x0001 ∧ decode 0x8AB8 = .unknown 0x8AB8 ∧ decode 0xEA00 = .unknown 0xEA00 ∧
    decode 0xFA30 = .unknown 0xFA30 ∧ decode 0x1001 = .instr (.jp 1) := by decide

theorem witness_StepRunsTheDecodedInstruction :
    State.reset.Running ∧ State.reset.nextMove = .cycle ∧ State.reset.fetch = .ok 0x0000 ∧
    decode 0x0000 = .instr .cls := by refine ⟨rfl, rfl, rfl, by decide⟩

/-- At the last place that can be fetched. -/
theorem witness_StepRunsTheDecodedInstruction_last :
    (State.reset.setPc 0xFFE).Running ∧ (State.reset.setPc 0xFFE).nextMove = .cycle ∧
    (State.reset.setPc 0xFFE).fetch = .ok 0x0000 := ⟨rfl, rfl, rfl⟩

theorem witness_PlacedWordIsRunNext : decodeTableWord 16 0xD125 = some (.drw 1 2 5) := rfl

/-- Placed also where `pc` cannot be fetched from, the block has faulted, and a `Tick` was to come first. -/
theorem witness_PlacedWordIsRunNext_faulted :
    holds (step (((broken.setPc 0xFFF).setAgenda [.tick]).withFetchWord 16 0x612A)) fun t =>
      t.reg 1 == 0x2A && t.pc == 2 && t.agenda == [.tick] := by decide

theorem witness_FetchReadsTwoBytesBigEndian :
    (State.reset.setPc 4094).pc.toNat ≤ 4094 ∧ (State.reset.setPc 4095).pc.toNat = 4095 ∧
    4096 ≤ (State.reset.setPc 4096).pc.toNat := by decide

theorem witness_UnknownOpcodeIsFatal :
    (withByte State.reset 0x201 0x01).Running ∧ (withByte State.reset 0x201 0x01).nextMove = .cycle ∧
    (withByte State.reset 0x201 0x01).fetch = .ok 0x0001 ∧ knownWord 0x0001 = false := by
  refine ⟨rfl, rfl, rfl, by decide⟩

/-- A fetch whose second byte, then whose first byte is out of range. -/
theorem witness_MemoryOutOfRangeIsRaised_fetch :
    (State.reset.setPc 4095).Running ∧ (State.reset.setPc 4095).nextMove = .cycle ∧
    4095 ≤ (State.reset.setPc 4095).pc.toNat ∧ 4095 ≤ (State.reset.setPc 4096).pc.toNat :=
  ⟨rfl, rfl, by decide, by decide⟩

/-- A data access whose third byte, then whose first byte is out of range. -/
theorem witness_MemoryOutOfRangeIsRaised_data :
    0 < (Instr.ldBVx 3).dataBytes ∧ 4096 < (indexAt 0xFFE).I.toNat + (Instr.ldBVx 3).dataBytes ∧
    0 < (Instr.drw 0 0 1).dataBytes ∧ 4096 < (indexAt 0x1000).I.toNat + (Instr.drw 0 0 1).dataBytes :=
  ⟨by decide, by decide, by decide, by decide⟩

theorem witness_FaultIsTerminalUntilALoad :
    broken.status = .faulted s8Record ∧ broken.nextMove = .cycle ∧ (broken.setAgenda [.tick]).nextMove = .tick :=
  ⟨rfl, rfl, rfl⟩

/-- The two ways a faulted block takes a step: a hand-off, after which it is faulted, and a load, after which it runs. -/
theorem witness_FaultIsTerminalUntilALoad_next :
    holds (step (broken.setAgenda [.takeFrame])) (fun t => t.status == .faulted s8Record) = true ∧
    holds (step (broken.setAgenda [.load []])) (fun t => t.status == .running) = true := by decide

theorem witness_TickCountsBothTimersDown :
    tickFirst.nextMove = .tick ∧ tickFirst.Running ∧ (broken.setAgenda [.tick]).nextMove = .tick ∧
    (broken.setAgenda [.tick]).status = .faulted s8Record := ⟨rfl, rfl, rfl, rfl⟩

theorem witness_TakeFrameHandsOverTheGrid :
    (asked .takeFrame).nextMove = .takeFrame ∧ (asked .takeFrame).draw = false ∧
    ((asked .takeFrame).paint Machine.Frame.clear).nextMove = .takeFrame ∧
    ((asked .takeFrame).paint Machine.Frame.clear).draw = true := ⟨rfl, rfl, rfl, rfl⟩

/-- One byte more than fits. -/
theorem witness_LoadChecksTheSize_tooLarge :
    (asked (.load (List.replicate 3585 0))).nextMove = .load (List.replicate 3585 0) ∧
    4096 - (asked (.load (List.replicate 3585 0))).params.programStart.toNat < (List.replicate 3585 (0 : Byte)).length :=
  ⟨rfl, by rw [List.length_replicate]; decide⟩

/-- Exactly as many bytes as fit; also for `LoadLaysTheImage` and `LoadResetsTheRegisters`. -/
theorem witness_LoadChecksTheSize_fits :
    (asked (.load (List.replicate 3584 0))).nextMove = .load (List.replicate 3584 0) ∧
    (List.replicate 3584 (0 : Byte)).length ≤ 4096 - (asked (.load (List.replicate 3584 0))).params.programStart.toNat :=
  ⟨rfl, by rw [List.length_replicate]; decide⟩

theorem witness_LoadLaysTheImage :
    (asked (.load [0x12, 0x00])).nextMove = .load [0x12, 0x00] ∧
    [(0x12 : Byte), 0x00].length ≤ 4096 - (asked (.load [0x12, 0x00])).params.programStart.toNat := by decide

theorem witness_LoadResetsTheRegisters :
    (broken.setAgenda [.load []]).nextMove = .load [] ∧
    ([] : List Byte).length ≤ 4096 - (broken.setAgenda [.load []]).params.programStart.toNat := by decide

theorem witness_MemoryReadsAndWritesOneByte : (4095 : Nat) ≤ 4095 ∧ (4095 : Nat) < 4096 := by decide

/-- `FX55` over the very next word; `FX33` whose last byte is the next word's first; a store up to the end of memory. -/
theorem witness_FetchSeesTheStoreBefore :
    (indexAt 0x202).DataInRange (Instr.storeRegs 1).dataBytes ∧ (indexAt 0x200).DataInRange (Instr.ldBVx 3).dataBytes ∧
    (indexAt 0xFFD).DataInRange (Instr.ldBVx 3).dataBytes ∧
    ∃ t, exec (.storeRegs 1) (indexAt 0x202) = .next t ∧ t.pc.toNat ≤ 4094 ∧ t.pc = 0x202 :=
  ⟨by decide, by decide, by decide, _, rfl, by decide, by decide⟩

/-- What the next fetch reads there: 61 2A stored over 0x202, and a digit stored over the first byte alone. -/
theorem witness_FetchSeesTheStoreBefore_reads :
    holds (exec (.storeRegs 1) ((regs [(0, 0x61), (1, 0x2A)]).setI 0x202)) (fun t => t.fetch == .ok 0x612A) = true ∧
    holds (exec (.ldBVx 3) ((regs [(3, 0x9D)]).setI 0x200)) (fun t => t.fetch == .ok 0x0700) = true := by decide

theorem witness_OnlyStoresWriteMemory :
    ∃ t, exec (.storeRegs 0) ((regs [(0, 0xAB)]).setI 0x300) = .next t ∧ t.Running ∧
      t.byteAt 0x300 ≠ ((regs [(0, 0xAB)]).setI 0x300).byteAt 0x300 := ⟨_, rfl, by decide, by decide⟩

theorem witness_ReturnPopsTheAddress :
    State.reset.sp.val = 0 ∧ 0 < (State.reset.setSp 1).sp.val ∧ 0 < fullStack.sp.val := by decide

theorem witness_CallPushesAndJumps :
    fullStack.sp.val = 16 ∧ (State.reset.setSp 15).sp.val < 16 ∧ State.reset.sp.val < 16 := by decide

/-- The last free slot; and a state whose other slots differ from those the call left. -/
theorem witness_CallThenReturnComesBack :
    (State.reset.setSp 15).sp.val < 16 ∧ ∃ t, exec (.call 0x400) (State.reset.setSp 15) = .next t ∧
      ∃ u : State, u.stack[(State.reset.setSp 15).sp.val]? = t.stack[(State.reset.setSp 15).sp.val]? ∧ u.sp = t.sp :=
  ⟨by decide, _, rfl, _, rfl, rfl⟩

/-- Where a call from reset leads. -/
def called : State := (State.reset.pushed 0x202 (by decide)).setPc 0x400

/-- Where code that has called once deeper and come back leads. -/
def calledDeeper : State := ((called.pushed 0x402 (by decide)).setSp 1).setPc 0x402

/-- Slot 1 is no longer as the first call left it, slot 0 and `sp` are. -/
theorem witness_CallThenReturnComesBack_deeper :
    exec (.call 0x400) State.reset = .next called ∧
    exec .ret ((called.pushed 0x402 (by decide)).setPc 0x500) = .next calledDeeper ∧
    calledDeeper.stack[State.reset.sp.val]? = called.stack[State.reset.sp.val]? ∧ calledDeeper.sp = called.sp ∧
    calledDeeper.stack ≠ called.stack := ⟨rfl, rfl, rfl, rfl, by decide⟩

theorem witness_ImmediateSkips : (regs [(3, 0x42)]).reg 3 = 0x42 ∧ (regs [(3, 0x41)]).reg 3 ≠ 0x42 := by decide

theorem witness_RegisterSkips :
    (regs [(1, 7), (2, 7)]).reg 1 = (regs [(1, 7), (2, 7)]).reg 2 ∧
    (regs [(1, 7), (2, 8)]).reg 1 ≠ (regs [(1, 7), (2, 8)]).reg 2 := by decide

/-- At the last `pc` that a cycle fetches from. -/
theorem witness_PcAdvancesByTwoUnlessItIsSet :
    ∃ t, exec .cls (State.reset.setPc 4094) = .next t ∧ t.Running ∧ Instr.cls.setsPc = false ∧
      (State.reset.setPc 4094).pc.toNat ≤ 4094 := ⟨_, rfl, by decide, rfl, by decide⟩

/-- Both sides of each flag's boundary. -/
theorem witness_AddAndSubtractWithFlag :
    255 < ((regs [(1, 0xFF), (2, 0x01)]).reg 1).toNat + ((regs [(1, 0xFF), (2, 0x01)]).reg 2).toNat ∧
    ¬255 < ((regs [(1, 0x7F), (2, 0x80)]).reg 1).toNat + ((regs [(1, 0x7F), (2, 0x80)]).reg 2).toNat ∧
    ((regs [(1, 5), (2, 6)]).reg 1).toNat < ((regs [(1, 5), (2, 6)]).reg 2).toNat ∧
    ¬((regs [(1, 5), (2, 5)]).reg 1).toNat < ((regs [(1, 5), (2, 5)]).reg 2).toNat := by decide

theorem witness_AluTouchesRegistersOnly : (Instr.rnd 1 2).isAlu = true := rfl

theorem witness_OnlyNamedRegistersChange :
    ∃ t, exec (.ldImm 1 0x42) State.reset = .next t ∧ t.Running ∧ t.reg 1 ≠ State.reset.reg 1 :=
  ⟨_, rfl, by decide, by decide⟩

/-- The last index for which three bytes fit, and the first for which they do not. -/
theorem witness_StoreDecimalDigits : (indexAt 0xFFD).DataInRange 3 ∧ ¬(indexAt 0xFFE).DataInRange 3 := by decide

theorem witness_StoreRegisters :
    (indexAt 0xFFE).DataInRange ((1 : Nibble).toNat + 1) ∧ ¬(indexAt 0xFFF).DataInRange ((1 : Nibble).toNat + 1) ∧
    (indexAt 0xFF0).DataInRange ((15 : Nibble).toNat + 1) := by decide

theorem witness_LoadRegisters :
    (indexAt 0xFFF).DataInRange ((0 : Nibble).toNat + 1) ∧ ¬(indexAt 0x1000).DataInRange ((0 : Nibble).toNat + 1) ∧
    ¬(indexAt 0xFFFF).DataInRange ((15 : Nibble).toNat + 1) := by decide

theorem witness_OnlyIndexInstructionsChangeI :
    ∃ t, exec (.ldI 0x123) State.reset = .next t ∧ t.Running ∧ t.I ≠ State.reset.I := ⟨_, rfl, by decide, by decide⟩

/-- A sprite whose last row is the last byte, one that runs past it, and one without rows above the array. -/
theorem witness_DrawXorsTheSprite :
    (indexAt 0xFF1).DataInRange (15 : Nibble).toNat ∧
    (¬(indexAt 0xFFF).DataInRange (2 : Nibble).toNat ∧ (2 : Nibble) ≠ 0) ∧
    (¬(indexAt 0x1001).DataInRange (0 : Nibble).toNat ∧ (0 : Nibble) = 0) := by decide

/-- A covered cell: glyph 0 at (0, 0) covers (0, 0) and not (4, 0). -/
theorem witness_DrawXorsTheSprite_covers :
    State.reset.Covers 0 0 5 0 0 ∧ ¬State.reset.Covers 0 0 5 4 0 := by
  constructor
  · exact ⟨0, by decide, 0, by decide, by decide⟩
  · rintro ⟨row, hr, col, hc, hb, hx, hy⟩
    have hcol : col = 4 := by omega
    have hrow : row = 0 := by omega
    subst hcol hrow
    exact absurd hb (by decide)

theorem witness_DrawingTwiceRestores :
    (1 : Nibble) ≠ 0xF ∧ (2 : Nibble) ≠ 0xF ∧ State.reset.DataInRange (5 : Nibble).toNat ∧
    Machine.Frame.cell State.reset.fb 0 0 = false := by decide

theorem witness_OnlyClsAndDrwPaint :
    ∃ t, exec .cls State.reset = .next t ∧ t.Running ∧ ∃ u, exec (.jp 0) State.reset = .next u ∧ u.Running :=
  ⟨_, rfl, by decide, _, rfl, by decide⟩

theorem witness_KeySkips : 15 < ((regs [(1, 16)]).reg 1).toNat ∧ ((regs [(1, 15)]).reg 1).toNat ≤ 15 := by decide

/-- One of the two cases of the scan is the case, whichever the free answers are. -/
theorem witness_KeyPoll :
    (∃ k, Config.keyAnswer State.reset.draws k = true) ∨ ∀ k, Config.keyAnswer State.reset.draws k = false := by
  by_cases h : ∃ k, Config.keyAnswer State.reset.draws k = true
  · exact .inl h
  · exact .inr fun k => by simpa using fun hk => h ⟨k, hk⟩

theorem witness_TimersChangeOnlyByTickOrTransfer :
    holds (step ((regs [(1, 9)]).withFetchWord 16 0xF115)) (fun t => t.DT == 9 && t.status == .running) = true ∧
    ∀ bytes, ((regs [(1, 9)]).withFetchWord 16 0xF115).nextMove ≠ .load bytes :=
  ⟨by decide, fun _ h => by cases h⟩

theorem witness_OnlyCallAndReturnUseTheStack :
    ∃ t, exec (.call 0x400) State.reset = .next t ∧ t.Running ∧ t.stack ≠ State.reset.stack ∧
      t.sp ≠ State.reset.sp := ⟨_, rfl, by decide, by decide, by decide⟩

theorem witness_EveryInstructionAnswersANextState : State.reset.Running := rfl

/-- Each fault disjunct happens from a running block, at the boundary of its clause. -/
theorem witness_EveryInstructionAnswersANextState_stack :
    holds (exec .ret State.reset) (fun t => t.status == .faulted { kind := .stackUnderflow, pc := 0x200 }) = true ∧
    holds (exec (.call 0x400) fullStack) (fun t => t.status == .faulted { kind := .stackOverflow, pc := 0x200 }) = true ∧
    State.reset.sp.val = 0 ∧ fullStack.Running ∧ fullStack.sp.val = 16 := by decide

theorem witness_EveryInstructionAnswersANextState_data :
    (∃ t, exec (.ldBVx 3) (indexAt 0xFFE) = .next t ∧
      t.status = .faulted { kind := .memoryOutOfRange (indexAt 0xFFE).firstBad, pc := 0x200 }) ∧
    (indexAt 0xFFE).Running ∧ 0 < (Instr.ldBVx 3).dataBytes ∧ (indexAt 0xFFE).firstBad = 0x1000 ∧
    4096 < (indexAt 0xFFE).I.toNat + (Instr.ldBVx 3).dataBytes :=
  ⟨⟨_, rfl, rfl⟩, rfl, by decide, by decide, by decide⟩

/-- No data byte, no fault: a sprite without rows and an `ADD I` with `I` past the end of memory. -/
theorem witness_EveryInstructionAnswersANextState_noData :
    (Instr.drw 0 1 0).dataBytes = 0 ∧ holds (exec (.drw 0 1 0) (indexAt 0x2000)) (fun t => t.status == .running) = true ∧
    holds (exec (.addIVx 0) (indexAt 0x2000)) (fun t => t.status == .running) = true := by decide

theorem witness_EveryInstructionAnswersANextState_key :
    holds (exec (.skp 1) (regs [(1, 16)]))
      (fun t => t.status == .faulted { kind := .keyIndexOutOfRange 16, pc := 0x200 }) = true ∧
    (regs [(1, 16)]).Running ∧ 15 < ((regs [(1, 16)]).reg 1).toNat := by decide

theorem witness_NoStepChangesTheParameters : holds (step State.reset) (fun _ => true) = true := by decide

theorem witness_EveryStepKeepsTheInvariant :
    State.reset.Inv ∧ holds (step State.reset) (fun _ => true) = true := by
  refine ⟨⟨⟨List.Pairwise.nil, ?_⟩, fun _ => ?_⟩, by decide⟩
  · simp [State.reset, State.resetWith]
  · decide

/-- One address held, and the step calls deeper. -/
def callsDeeper : State := called.withFetchWord 16 0x2400

theorem witness_HeldAddressesAreKept :
    holds (step callsDeeper) (fun t => t.status == .running && t.sp == 2 && t.stack[0] == 0x202 &&
      t.stack[1] == 0x402) = true ∧
    callsDeeper.nextMove = .cycle ∧ 0 < callsDeeper.sp.val := by decide

end Sys2Proof.Tests
end

/-! PROOFS. The statements about memory (20_memory.md): one byte read and written, the fetch, and the image a load
lays. -/

namespace Sys2Proof.Machine

open Config

/-- A step whose move is a load answers the load of the state with the move taken (R240, R250). -/
theorem step_load {s : State} {bytes : List Byte} (h : s.nextMove = .load bytes) :
    step s = .next (s.dropMove.load bytes) := by
  rw [step_eq, h, State.hostMove]

/-- The bytes after a load that fits: the program's from `PROGRAM_START` on, the reset image's elsewhere (R59). -/
theorem State.load_byteAt {s : State} {bytes : List Byte} (h : imageFits s.params.programStart bytes = true)
    (a : Nat) :
    (s.load bytes).byteAt a =
      if s.params.programStart.toNat ≤ a then
        (bytes[a - s.params.programStart.toNat]?).getD (resetByte s.params.font a)
      else resetByte s.params.font a := by
  rw [State.load_ok h]
  exact Memory.byteAt_image s.params.font s.params.programStart.toNat bytes a

/-- Settles O17: the load the step takes fits, and each address reads the byte of the image (`State.load_byteAt`). -/
theorem loadLaysTheImage : Obligations.LoadLaysTheImage := by
  intro s bytes hmove hlen
  have hfits : imageFits s.dropMove.params.programStart bytes = true := decide_eq_true hlen
  refine ⟨_, step_load hmove, fun a ha => ?_⟩
  rw [State.memRead_ok ha, State.load_byteAt hfits, State.dropMove_params]
  by_cases hstart : s.params.programStart.toNat ≤ a
  · by_cases hin : a - s.params.programStart.toNat < bytes.length
    · simp [hstart, hin]
    · simp [hstart, hin, resetByte]
  · simp [hstart, resetByte]

/-- Settles O9: the three places `pc` can have (`State.fetch_cases`), each of which shuts out the other two clauses. -/
theorem fetchReadsTwoBytesBigEndian : Obligations.FetchReadsTwoBytesBigEndian := by
  intro s
  have hsize : memSize = 4096 := rfl
  obtain ⟨hpc, hfetch⟩ | ⟨hpc, hfetch⟩ | ⟨hpc, hfetch⟩ := s.fetch_cases
  · exact ⟨fun _ => ⟨_, hfetch, wordOfBytes_toNat _ _⟩, fun _ => by omega, fun _ => by omega⟩
  · exact ⟨fun _ => by omega, fun _ => by rw [hfetch, hpc], fun _ => by omega⟩
  · exact ⟨fun _ => by omega, fun _ => by omega, fun _ => hfetch⟩

/-- Settles O20: in range a write sets one cell (`State.setMem_setByte_byteAt`), out of range it fails as a read does. -/
theorem memoryReadsAndWritesOneByte : Obligations.MemoryReadsAndWritesOneByte := by
  intro s a v
  refine ⟨fun h => ?_, fun h => ⟨State.memRead_error h, State.memWrite_error h v⟩⟩
  have ha : a < memSize := Nat.lt_succ_of_le h
  refine ⟨State.memRead_ok ha, _, State.memWrite_ok ha v, rfl, ?_, fun b hb => ?_⟩
  · rw [State.memRead_ok ha, State.setMem_setByte_byteAt, if_pos rfl]
  · rw [State.setMem_setByte_byteAt, if_neg hb]

end Sys2Proof.Machine

/-! PROOFS. The statement that every word is one instruction or unknown (30_encoding.md R83): the decoder answers an
instruction exactly on the words its row of the opcode map selects, with the operands the fields of the word give. -/

namespace Sys2Proof

/-! ## The bits a mask keeps of a word, from its fields (R81, R86) -/

theorem mask_eq_of_fieldF {w : Word} {f : Nibble} (hF : fieldF w = f) : w &&& 0xF000 = wordNNN f 0 := by
  rw [← hF, ← wordNNN_mask_F _ (fieldNNN w), wordNNN_fields]

theorem mask_eq_of_fieldFN {w : Word} {f n : Nibble} (hF : fieldF w = f) (hN : fieldN w = n) :
    w &&& 0xF00F = wordXYN f 0 0 n := by
  rw [← hF, ← hN, ← wordXYN_mask_FN _ (fieldX w) (fieldY w), wordXYN_fields]

theorem mask_eq_of_fieldFNN {w : Word} {f : Nibble} {nn : Byte} (hF : fieldF w = f) (hNN : fieldNN w = nn) :
    w &&& 0xF0FF = wordXNN f 0 nn := by
  rw [← hF, ← hNN, ← wordXNN_mask_FNN _ (fieldX w), wordXNN_fields]

/-! ## The instruction of a row, with the operands a word gives -/

/-- The instruction of the same row whose operands are the fields of the word (R81, R86). -/
def Instr.withFieldsOf (w : Word) : Instr → Instr
  | .cls => .cls
  | .ret => .ret
  | .jp _ => .jp (fieldNNN w)
  | .call _ => .call (fieldNNN w)
  | .seImm _ _ => .seImm (fieldX w) (fieldNN w)
  | .sneImm _ _ => .sneImm (fieldX w) (fieldNN w)
  | .seReg _ _ => .seReg (fieldX w) (fieldY w)
  | .ldImm _ _ => .ldImm (fieldX w) (fieldNN w)
  | .addImm _ _ => .addImm (fieldX w) (fieldNN w)
  | .ldReg _ _ => .ldReg (fieldX w) (fieldY w)
  | .orReg _ _ => .orReg (fieldX w) (fieldY w)
  | .andReg _ _ => .andReg (fieldX w) (fieldY w)
  | .xorReg _ _ => .xorReg (fieldX w) (fieldY w)
  | .addReg _ _ => .addReg (fieldX w) (fieldY w)
  | .subReg _ _ => .subReg (fieldX w) (fieldY w)
  | .shr _ _ => .shr (fieldX w) (fieldY w)
  | .subnReg _ _ => .subnReg (fieldX w) (fieldY w)
  | .shl _ _ => .shl (fieldX w) (fieldY w)
  | .sneReg _ _ => .sneReg (fieldX w) (fieldY w)
  | .ldI _ => .ldI (fieldNNN w)
  | .jpV0 _ => .jpV0 (fieldNNN w)
  | .rnd _ _ => .rnd (fieldX w) (fieldNN w)
  | .drw _ _ _ => .drw (fieldX w) (fieldY w) (fieldN w)
  | .skp _ => .skp (fieldX w)
  | .sknp _ => .sknp (fieldX w)
  | .ldVxDt _ => .ldVxDt (fieldX w)
  | .ldVxK _ => .ldVxK (fieldX w)
  | .ldDtVx _ => .ldDtVx (fieldX w)
  | .ldStVx _ => .ldStVx (fieldX w)
  | .addIVx _ => .addIVx (fieldX w)
  | .ldFVx _ => .ldFVx (fieldX w)
  | .ldBVx _ => .ldBVx (fieldX w)
  | .storeRegs _ => .storeRegs (fieldX w)
  | .loadRegs _ => .loadRegs (fieldX w)

@[simp] theorem Instr.row_withFieldsOf (w : Word) (i : Instr) : (i.withFieldsOf w).row = i.row := by
  cases i <;> rfl

theorem Instr.row_mem_opTable (i : Instr) : i.row ∈ opTable := by
  cases i <;> simp [opTable, Instr.row]

/-- Every row of the opcode map is some instruction's. -/
theorem exists_row_eq_of_mem_opTable {r : OpRow} (hr : r ∈ opTable) : ∃ i : Instr, i.row = r := by
  obtain ⟨i, -, hi⟩ := List.mem_map.1 hr
  exact ⟨i, hi⟩

/-! ## The decoder within a family (R84) -/

theorem decode_of_family0 {w : Word} (hF : fieldF w = 0x0) : decode w = decodeFamily0 w := by
  rw [decode, hF]
  rfl

theorem decode_of_family8 {w : Word} (hF : fieldF w = 0x8) : decode w = decodeFamily8 w := by
  rw [decode, hF]
  rfl

theorem decode_of_familyE {w : Word} (hF : fieldF w = 0xE) : decode w = decodeFamilyE w := by
  rw [decode, hF]
  rfl

theorem decode_of_familyF {w : Word} (hF : fieldF w = 0xF) : decode w = decodeFamilyF w := by
  rw [decode, hF]
  rfl

/-- Completeness: a word the row of an instruction selects decodes to that row's instruction, with the operands the
word gives (R86). The split is by what the row's mask fixes. -/
theorem decode_of_selects {w : Word} {i : Instr} (h : i.row.selects w = true) :
    decode w = .instr (i.withFieldsOf w) := by
  rw [OpRow.selects, beq_iff_eq] at h
  cases i with
  | jp | call | seImm | sneImm | seReg | ldImm | addImm | sneReg | ldI | jpV0 | rnd | drw =>
    have hF := fieldF_of_mask h
    dsimp only [Instr.row] at hF
    rw [decode, hF]
    rfl
  | cls | ret =>
    obtain ⟨hF, hN⟩ := fieldFN_of_mask h
    dsimp only [Instr.row] at hF hN
    rw [decode_of_family0 hF, decodeFamily0, hN]
    rfl
  | ldReg | orReg | andReg | xorReg | addReg | subReg | shr | subnReg | shl =>
    obtain ⟨hF, hN⟩ := fieldFN_of_mask h
    dsimp only [Instr.row] at hF hN
    rw [decode_of_family8 hF, decodeFamily8, hN]
    rfl
  | skp | sknp =>
    obtain ⟨hF, hNN⟩ := fieldFNN_of_mask h
    dsimp only [Instr.row] at hF hNN
    rw [decode_of_familyE hF, decodeFamilyE, hNN]
    rfl
  | ldVxDt | ldVxK | ldDtVx | ldStVx | addIVx | ldFVx | ldBVx | storeRegs | loadRegs =>
    obtain ⟨hF, hNN⟩ := fieldFNN_of_mask h
    dsimp only [Instr.row] at hF hNN
    rw [decode_of_familyF hF, decodeFamilyF, hNN]
    rfl

/-- `decode_of_selects` as `SelectedBy`, the form the statements about single instructions ask for: at `.jp 0`, for one,
it is their clause for `1NNN`. -/
theorem selectedBy_row (i : Instr) : Machine.SelectedBy i.row.pat i.row.mask (fun w => i.withFieldsOf w) :=
  fun _ h => decode_of_selects (beq_iff_eq.2 h)

/-! ## What the decoder answers -/

/-- What is decoded stands for the word: an instruction whose row selects the word and whose operands are its fields,
or the word itself as unknown. -/
def Decoded.StandsFor (w : Word) : Decoded → Prop
  | .instr i => i.row.selects w = true ∧ i.withFieldsOf w = i
  | .unknown u => u = w

theorem decodeFamily0_standsFor {w : Word} (hF : fieldF w = 0x0) : (decodeFamily0 w).StandsFor w := by
  unfold decodeFamily0
  split
  case h_3 => exact rfl
  all_goals
    rename_i hN
    exact ⟨beq_iff_eq.2 (mask_eq_of_fieldFN hF hN), rfl⟩

theorem decodeFamily8_standsFor {w : Word} (hF : fieldF w = 0x8) : (decodeFamily8 w).StandsFor w := by
  unfold decodeFamily8
  split
  case h_10 => exact rfl
  all_goals
    rename_i hN
    exact ⟨beq_iff_eq.2 (mask_eq_of_fieldFN hF hN), rfl⟩

theorem decodeFamilyE_standsFor {w : Word} (hF : fieldF w = 0xE) : (decodeFamilyE w).StandsFor w := by
  unfold decodeFamilyE
  split
  case h_3 => exact rfl
  all_goals
    rename_i hNN
    exact ⟨beq_iff_eq.2 (mask_eq_of_fieldFNN hF hNN), rfl⟩

theorem decodeFamilyF_standsFor {w : Word} (hF : fieldF w = 0xF) : (decodeFamilyF w).StandsFor w := by
  unfold decodeFamilyF
  split
  case h_10 => exact rfl
  all_goals
    rename_i hNN
    exact ⟨beq_iff_eq.2 (mask_eq_of_fieldFNN hF hNN), rfl⟩

/-- Soundness: whatever the decoder answers stands for the word. The split is by family; the four with a sub-select
have their own lemmas above, and the last arm is family 0xF since the fifteen others are excluded. -/
theorem decode_standsFor (w : Word) : (decode w).StandsFor w := by
  unfold decode
  split
  case h_1 hF => exact decodeFamily0_standsFor hF
  case h_9 hF => exact decodeFamily8_standsFor hF
  case h_15 hF => exact decodeFamilyE_standsFor hF
  case h_16 =>
    have hF : fieldF w = 0xF := by
      generalize fieldF w = f at *
      revert f
      decide
    exact decodeFamilyF_standsFor hF
  all_goals
    rename_i hF
    exact ⟨beq_iff_eq.2 (mask_eq_of_fieldF hF), rfl⟩

/-- The words that decode to an instruction are those its row selects and whose fields are its operands (R86). -/
theorem decode_eq_instr_iff {w : Word} {i : Instr} :
    decode w = .instr i ↔ i.row.selects w = true ∧ i.withFieldsOf w = i := by
  refine ⟨fun hd => ?_, fun ⟨hsel, hops⟩ => by rw [decode_of_selects hsel, hops]⟩
  have := decode_standsFor w
  rwa [hd] at this

/-- An unknown word is reported as itself (R87). -/
theorem eq_of_decode_eq_unknown {w u : Word} (hd : decode w = .unknown u) : u = w := by
  have := decode_standsFor w
  rwa [hd] at this

/-- A row of the opcode map that selects the word is the row of the instruction the word decodes to. -/
theorem exists_decode_of_mem_opTable {w : Word} {r : OpRow} (hr : r ∈ opTable) (hsel : r.selects w = true) :
    ∃ i, decode w = .instr i ∧ i.row = r := by
  obtain ⟨i, rfl⟩ := exists_row_eq_of_mem_opTable hr
  exact ⟨_, decode_of_selects hsel, i.row_withFieldsOf w⟩

/-- Settles O3: the row of the decoded instruction selects the word (`decode_eq_instr_iff`), and any row that selects
the word is the row of what it decodes to (`exists_decode_of_mem_opTable`), so there is no second one, and none where
the word is unknown. -/
theorem everyWordIsOneInstructionOrUnknown : Obligations.EveryWordIsOneInstructionOrUnknown := by
  intro w
  cases hd : decode w with
  | instr i =>
    refine .inl ⟨i, rfl, i.row_mem_opTable, (decode_eq_instr_iff.1 hd).1, fun r hr hsel => ?_⟩
    obtain ⟨j, hj, rfl⟩ := exists_decode_of_mem_opTable hr hsel
    rw [Decoded.instr.inj (hj.symm.trans hd)]
  | unknown u =>
    refine .inr ⟨by rw [eq_of_decode_eq_unknown hd], fun r hr => Bool.eq_false_iff.2 fun hsel => ?_⟩
    obtain ⟨j, hj, -⟩ := exists_decode_of_mem_opTable hr hsel
    exact nomatch hj.symm.trans hd

end Sys2Proof

/-! PROOFS. The statements about control transfer and skips (40_flow.md): return, jump, call and the immediate skips.
The words of each are those its row selects (`selectedBy_row`). -/

namespace Sys2Proof.Machine

/-- Zero extension keeps the address's value (R82). -/
@[simp] theorem zextAddr_toNat (nnn : Addr) : (zextAddr nnn).toNat = nnn.toNat :=
  BitVec.toNat_setWidth_of_le (by decide)

/-- The slot at `sp` takes the pushed word (R113). -/
theorem State.pushed_stack_same (s : State) (v : Word) (h : s.sp.val < 16) :
    (s.pushed v h).stack[s.sp.val]? = some v := by
  rw [State.pushed_stack, Vector.getElem?_set_self]

/-- A push leaves every other slot (R113). -/
theorem State.pushed_stack_ne (s : State) (v : Word) (h : s.sp.val < 16) {j : Nat} (hj : j ≠ s.sp.val) :
    (s.pushed v h).stack[j]? = s.stack[j]? := by
  rw [State.pushed_stack, Vector.getElem?_set_ne h hj.symm]

/-- A skip writes `pc` alone, by 4 where its condition holds and by 2 where it does not (R27, R110): said for any two
propositions that decide the condition. -/
theorem State.skipIf_spec (s : State) {c : Bool} {taken notTaken : Prop} (htaken : taken → c = true)
    (hnot : notTaken → c = false) :
    s.skipIf c = { s with pc := (s.skipIf c).pc } ∧ KeepsBytes s (s.skipIf c) ∧
      (taken → (s.skipIf c).pc = s.pc + 4) ∧ (notTaken → (s.skipIf c).pc = s.pc + 2) := by
  refine ⟨rfl, s.skipIf_byteAt c, fun h => ?_, fun h => ?_⟩
  · rw [State.skipIf_pc, htaken h, if_pos rfl]
  · rw [State.skipIf_pc, hnot h, if_neg Bool.false_ne_true]

/-- Settles O23: with no address held the pop answers none (`execRet_empty`), else it moves the slot below `sp` into
`pc` (`execRet_of_pos`). -/
theorem returnPopsTheAddress : Obligations.ReturnPopsTheAddress := by
  refine ⟨selectedBy_row .ret, fun s => ⟨fun hempty => ?_, fun hpos => ?_⟩⟩
  · exact ⟨_, execRet_empty hempty, rfl⟩
  · exact ⟨_, execRet_of_pos hpos, rfl, fun _ => rfl, rfl, Vector.getElem?_eq_getElem _⟩

/-- Settles O24: the target is the address zero extended (`zextAddr_toNat`). -/
theorem jumpSetsPc : Obligations.JumpSetsPc :=
  ⟨selectedBy_row (.jp 0), fun nnn s => ⟨s.setPc (zextAddr nnn), rfl, rfl, s.setPc_byteAt _, zextAddr_toNat nnn⟩⟩

/-- Settles O25: with sixteen addresses held the push answers none (`execCall_full`), else it writes the slot at `sp`
and no other (`State.pushed_stack_same`, `State.pushed_stack_ne`), and the call jumps. -/
theorem callPushesAndJumps : Obligations.CallPushesAndJumps := by
  refine ⟨selectedBy_row (.call 0), fun nnn s => ⟨fun hfull => ?_, fun hroom => ?_⟩⟩
  · exact ⟨_, execCall_full hfull nnn, rfl⟩
  · exact ⟨_, execCall_of_lt hroom nnn, rfl, fun _ => rfl, rfl, zextAddr_toNat nnn, s.pushed_stack_same _ hroom,
      fun _ hj => s.pushed_stack_ne _ hroom hj⟩

/-- Settles O27: both are the skip of `State.skipIf_spec`, on the equality of register and byte or its opposite. -/
theorem immediateSkips : Obligations.ImmediateSkips := by
  refine ⟨selectedBy_row (.seImm 0 0), selectedBy_row (.sneImm 0 0), fun x nn s => ⟨?_, ?_⟩⟩
  · exact ⟨s.skipIf (s.reg x == nn), rfl, s.skipIf_spec beq_iff_eq.2 beq_eq_false_iff_ne.2⟩
  · exact ⟨s.skipIf (s.reg x != nn), rfl, s.skipIf_spec bne_iff_ne.2 bne_eq_false_iff_eq.2⟩

end Sys2Proof.Machine

/-! PROOFS. The statements about register loads and the ALU (41_alu.md): the instructions that write one register and
no flag. -/

namespace Sys2Proof.Machine

/-- One register written, then `pc + 2`, is all that `RegWritten` allows (R22, R27): the shared end of every instruction
that writes a register and nothing else. -/
theorem State.regWritten_setReg_advance (s : State) (x : Nibble) (v : Byte) :
    RegWritten s (s.setReg x v).advance x v :=
  ⟨rfl, s.setReg_byteAt x v, s.setReg_reg_same x v, fun _ hr => s.setReg_reg_of_ne v hr⟩

/-- The flagless two-register form writes `V[X]` alone, with the operation's result on the old registers (R133 to R136,
R144). -/
theorem State.regWritten_aluPlain (s : State) (x y : Nibble) (f : Byte → Byte → Byte) :
    RegWritten s (s.aluPlain x y f) x (f (s.reg x) (s.reg y)) :=
  s.regWritten_setReg_advance x (f (s.reg x) (s.reg y))

/-- Settles O31: both end in `State.regWritten_setReg_advance`; the sum of two bytes is taken modulo 256. -/
theorem loadAndAddImmediate : Obligations.LoadAndAddImmediate := by
  refine ⟨selectedBy_row (.ldImm 0 0), selectedBy_row (.addImm 0 0), fun x nn s => ⟨?_, ?_⟩⟩
  · exact ⟨_, rfl, s.regWritten_setReg_advance x nn⟩
  · exact ⟨_, s.reg x + nn, rfl, s.regWritten_setReg_advance x _, BitVec.toNat_add _ _⟩

/-- Settles O32: the four are one form (`State.regWritten_aluPlain`) at four operations. -/
theorem copyAndLogicWriteNoFlag : Obligations.CopyAndLogicWriteNoFlag := by
  refine ⟨selectedBy_row (.ldReg 0 0), selectedBy_row (.orReg 0 0), selectedBy_row (.andReg 0 0),
    selectedBy_row (.xorReg 0 0), fun x y s => ⟨?_, ?_, ?_, ?_⟩⟩
  · exact ⟨_, rfl, s.regWritten_aluPlain x y fun _ b => b⟩
  · exact ⟨_, rfl, s.regWritten_aluPlain x y fun a b => a ||| b⟩
  · exact ⟨_, rfl, s.regWritten_aluPlain x y fun a b => a &&& b⟩
  · exact ⟨_, rfl, s.regWritten_aluPlain x y fun a b => a ^^^ b⟩

end Sys2Proof.Machine

/-! PROOFS. The statements about the index register and the memory transfers (42_index_memory.md): the two loads of `I`,
and the three transfers from `I` on, in range and past the end of memory. -/

namespace Sys2Proof.Machine

open Config

/-! ## What the transfers share (R160) -/

/-- The address the statements name is the one the accesses in ascending order report (R160). -/
theorem State.firstBad_eq_max (s : State) : s.firstBad = max s.I.toNat memSize := by
  have hsize : memSize = 4096 := rfl
  unfold State.firstBad
  split <;> omega

/-- A data fault at the first address past the end records it and the instruction's own `pc` (R222, R225). -/
theorem State.raiseData_max_status (s : State) :
    (s.raiseData (max s.I.toNat memSize)).status =
      .faulted { kind := .memoryOutOfRange s.firstBad, pc := s.pc } := by
  rw [State.firstBad_eq_max]
  exact (s.raiseData_spec _).1

/-- A store in range writes its bytes in order from `I` on, no other byte, and `pc` (R160). -/
theorem State.storeAtI_of_inRange {s : State} {bytes : List Byte} (h : s.DataInRange bytes.length) :
    s.storeAtI bytes = { s with mem := (s.storeAtI bytes).mem, pc := s.pc + 2 } ∧
    (∀ k v, bytes[k]? = some v → (s.storeAtI bytes).byteAt (s.I.toNat + k) = v) ∧
    ∀ a, ¬(s.I.toNat ≤ a ∧ a < s.I.toNat + bytes.length) → (s.storeAtI bytes).byteAt a = s.byteAt a := by
  obtain ⟨m, hstore, hbyte, -⟩ := State.storeAtI_ok h
  rw [hstore]
  refine ⟨rfl, fun k v hk => (hbyte _).trans ?_, fun a ha => (hbyte a).trans ?_⟩
  · rw [if_pos (Nat.le_add_right _ _), Nat.add_sub_cancel_left, hk, Option.getD_some]
  · split
    · rw [List.getElem?_eq_none (by omega), Option.getD_none]
    · rfl

/-- A store that does not fit faults with the first address past the end (R160). -/
theorem State.storeAtI_of_not_inRange {s : State} {bytes : List Byte} (hne : bytes ≠ [])
    (h : ¬s.DataInRange bytes.length) :
    (s.storeAtI bytes).status = .faulted { kind := .memoryOutOfRange s.firstBad, pc := s.pc } := by
  rw [State.storeAtI_error hne (Nat.lt_of_not_le h), State.raiseData_max_status]

/-- There is always a register to store: `V[0]` (R165). -/
theorem State.regsTo_ne_nil (s : State) (x : Nibble) : s.regsTo x ≠ [] :=
  List.ne_nil_of_length_pos (by rw [State.regsTo_length]; exact Nat.succ_pos _)

/-- All of `V` replaced, then `pc + 2`: nothing else changes (R166). Said for any `V`, so that no proof evaluates the
loaded one. -/
theorem State.setV_advance_frame (s : State) (v : Vector Byte 16) :
    (s.setV v).advance = { s with V := (s.setV v).advance.V, pc := s.pc + 2 } := rfl

theorem State.setV_advance_keepsBytes (s : State) (v : Vector Byte 16) : KeepsBytes s (s.setV v).advance :=
  fun _ => rfl

/-! ## The stores and the load -/

/-- Settles O41: the three digits are the bytes `State.storeAtI` stores, each below 256. -/
theorem storeDecimalDigits : Obligations.StoreDecimalDigits := by
  refine ⟨selectedBy_row (.ldBVx 0), fun x s => ⟨fun hin => ?_, fun hout => ?_⟩⟩
  · obtain ⟨hframe, hstored, hkept⟩ := State.storeAtI_of_inRange (bytes := bcdDigits (s.reg x)) hin
    have hv := (s.reg x).isLt
    refine ⟨_, rfl, hframe, ?_, ?_, ?_, hkept⟩
    · rw [← Nat.add_zero s.I.toNat, hstored 0 _ rfl]
      exact Nat.mod_eq_of_lt (by omega)
    · rw [hstored 1 _ rfl]
      exact Nat.mod_eq_of_lt (by omega)
    · rw [hstored 2 _ rfl]
      exact Nat.mod_eq_of_lt (by omega)
  · exact ⟨_, rfl, State.storeAtI_of_not_inRange (List.cons_ne_nil _ _) hout⟩

/-- Settles O42: the `k`-th byte stored is `V[k]` (`State.regsTo_get`), and `X + 1` are stored. -/
theorem storeRegisters : Obligations.StoreRegisters := by
  refine ⟨selectedBy_row (.storeRegs 0), fun x s => ?_⟩
  rw [← s.regsTo_length x]
  refine ⟨fun hin => ?_, fun hout => ?_⟩
  · obtain ⟨hframe, hstored, hkept⟩ := State.storeAtI_of_inRange hin
    refine ⟨_, rfl, hframe, fun k hk => hstored _ _ (s.regsTo_get x k hk), fun a ha => hkept a ?_⟩
    rwa [s.regsTo_length x, ← Nat.add_assoc, Nat.lt_succ_iff]
  · exact ⟨_, rfl, State.storeAtI_of_not_inRange (s.regsTo_ne_nil x) hout⟩

/-- Settles O43: the `k`-th byte read goes to `V[k]` (`withLeading_reg`); no byte is read for a register above `X`. -/
theorem loadRegisters : Obligations.LoadRegisters := by
  refine ⟨selectedBy_row (.loadRegs 0), fun x s => ⟨fun hin => ?_, fun hout => ?_⟩⟩
  · refine ⟨_, execLoadRegs_ok hin, s.setV_advance_frame _, s.setV_advance_keepsBytes _,
      fun k hk => ?_, fun k hk => ?_⟩
    · rw [State.advance_reg, withLeading_reg]
      simp [Nat.lt_succ_of_le hk]
    · rw [State.advance_reg, withLeading_reg, List.getElem?_eq_none (by simpa using hk),
        Option.getD_none]
  · exact ⟨_, execLoadRegs_error (Nat.lt_of_not_le hout), s.raiseData_max_status⟩

/-! ## The index register -/

/-- Five times a byte fits in 16 bits, so the glyph's address is the exact product (R163). -/
theorem glyphAddr_toNat (v : Byte) : (glyphAddr v).toNat = v.toNat * 5 :=
  Nat.mod_eq_of_lt (by have := v.isLt; omega)

/-- Settles O38: the index takes the address zero extended (`zextAddr_toNat`). -/
theorem loadIndex : Obligations.LoadIndex :=
  ⟨selectedBy_row (.ldI 0), fun nnn s =>
    ⟨(s.setI (zextAddr nnn)).advance, rfl, rfl, fun _ => rfl, zextAddr_toNat nnn⟩⟩

/-- Settles O40: the index takes the glyph's address, of the whole byte (`glyphAddr_toNat`). -/
theorem pointIndexAtGlyph : Obligations.PointIndexAtGlyph :=
  ⟨selectedBy_row (.ldFVx 0), fun x s =>
    ⟨(s.setI (glyphAddr (s.reg x))).advance, rfl, rfl, fun _ => rfl, glyphAddr_toNat _⟩⟩

end Sys2Proof.Machine

/-! PROOFS. The statements about the display (43_display.md): clearing the screen. -/

namespace Sys2Proof.Machine

/-- Settles O45: the grid painted is the clear one, whatever stood there before (`Frame.cell_clear`), and painting sets
the draw-flag (R180). -/
theorem clearScreen : Obligations.ClearScreen :=
  ⟨selectedBy_row .cls, fun s =>
    ⟨(s.paint Frame.clear).advance, rfl, rfl, fun _ => rfl, Frame.cell_clear⟩⟩

end Sys2Proof.Machine

/-! PROOFS. The statements about the timers and the keys (44_timers_input.md): the transfers between a register and a
timer. -/

namespace Sys2Proof.Machine

/-- The sound is on exactly while the sound timer is not 0 (R207). -/
theorem State.soundActive_iff (s : State) : s.soundActive = true ↔ s.ST ≠ 0 := by
  rw [State.soundActive, decide_eq_true_iff, Nat.pos_iff_ne_zero, BitVec.toNat_ne]
  rfl

/-- Settles O51: `FX07` is a register written (`State.regWritten_setReg_advance`), the other two replace one timer by
`V[X]`; the sound follows the timer written (`State.soundActive_iff`). -/
theorem timerTransfers : Obligations.TimerTransfers := by
  refine ⟨selectedBy_row (.ldVxDt 0), selectedBy_row (.ldDtVx 0), selectedBy_row (.ldStVx 0),
    fun x s => ⟨?_, ?_, ?_⟩⟩
  · exact ⟨_, rfl, s.regWritten_setReg_advance x s.DT⟩
  · exact ⟨(s.setDT (s.reg x)).advance, rfl, rfl, fun _ => rfl⟩
  · exact ⟨(s.setST (s.reg x)).advance, rfl, rfl, fun _ => rfl, (s.setST (s.reg x)).advance.soundActive_iff⟩

end Sys2Proof.Machine

/-! PROOFS. The statements about faults and the tick (60_exceptions.md): the moves taken only while the block runs, the
fault of an unknown word, and the timers. -/

namespace Sys2Proof

/-- A word that no row of the opcode map selects decodes to itself as unknown (R87). -/
theorem decode_of_knownWord_eq_false {w : Word} (h : knownWord w = false) : decode w = .unknown w := by
  cases hd : decode w with
  | instr i =>
    have hknown : knownWord w = true := List.any_eq_true.2 ⟨i.row, i.row_mem_opTable, (decode_eq_instr_iff.1 hd).1⟩
    exact absurd hknown (Bool.eq_false_iff.1 h)
  | unknown u => rw [eq_of_decode_eq_unknown hd]

end Sys2Proof

namespace Sys2Proof.Machine

/-! ## The moves that are taken only while the block runs (R35) -/

/-- A move that asks for a running block is taken in one. -/
theorem State.whileRunning_of_running {s : State} (h : s.Running)
    (go : State → Host.Outcome State Fault Refusal) : s.whileRunning go = go s := by
  rw [State.whileRunning, h]

/-- A move that asks for a running block stops in a faulted one (R222). -/
theorem State.whileRunning_of_faulted {s : State} {r : FaultRecord} (h : s.status = .faulted r)
    (go : State → Host.Outcome State Fault Refusal) : s.whileRunning go = .fault (.halted r) := by
  rw [State.whileRunning, h]

/-- A cycle step of a running block fetches, decodes and executes (R89). -/
theorem step_cycle {s : State} (hrun : s.Running) (h : s.nextMove = .cycle) : step s = s.dropMove.runCycle := by
  rw [step_eq, h, State.hostMove, State.whileRunning_of_running (s.dropMove_status.trans hrun)]

/-- A tick step of a running block decrements the timers (R230). -/
theorem step_tick {s : State} (hrun : s.Running) (h : s.nextMove = .tick) : step s = .next s.dropMove.tick := by
  rw [step_eq, h, State.hostMove, State.whileRunning_of_running (s.dropMove_status.trans hrun)]

/-- No cycle and no tick is taken in a faulted block (R35, R222). -/
theorem step_halted {s : State} {r : FaultRecord} (hfault : s.status = .faulted r)
    (h : s.nextMove = .cycle ∨ s.nextMove = .tick) : step s = .fault (.halted r) := by
  obtain h | h := h
  · rw [step_eq, h, State.hostMove, State.whileRunning_of_faulted (s.dropMove_status.trans hfault)]
  · rw [step_eq, h, State.hostMove, State.whileRunning_of_faulted (s.dropMove_status.trans hfault)]

/-! ## The unknown word and the tick -/

/-- A cycle that fetches an unknown word raises its fault (R221). -/
theorem State.runCycle_unknown {s : State} {w u : Word} (hfetch : s.fetch = .ok w) (hd : decode w = .unknown u) :
    s.runCycle = .next (s.raise (.unknownOpcode u)) := by
  simp only [State.runCycle, hfetch, hd]

/-- The decrement is the truncated one of the numbers (R230). -/
theorem countDown_toNat (v : Byte) : (countDown v).toNat = v.toNat - 1 := by
  unfold countDown
  split
  case isTrue hpos => exact BitVec.toNat_sub_of_le (BitVec.le_def.2 hpos)
  case isFalse hzero => omega

/-- Settles O10: a word that no row selects is unknown (`decode_of_knownWord_eq_false`), the move taken changes nothing
the fetch reads (`State.dropMove_fetch`), and raising the fault writes the status alone. -/
theorem unknownOpcodeIsFatal : Obligations.UnknownOpcodeIsFatal := by
  intro s w hrun hmove hfetch hunknown
  have hd : decode w = .unknown w := decode_of_knownWord_eq_false hunknown
  rw [step_cycle hrun hmove, State.runCycle_unknown (s.dropMove_fetch.trans hfetch) hd]
  rfl

/-- Settles O13: a running block takes the tick (`step_tick`), which decrements each timer (`countDown_toNat`); a
faulted one stops (`step_halted`). -/
theorem tickCountsBothTimersDown : Obligations.TickCountsBothTimersDown := by
  refine fun s hmove => ⟨fun hrun => ?_, fun r hfault t hnext => ?_⟩
  · exact ⟨s.dropMove.tick, step_tick hrun hmove, rfl, countDown_toNat s.DT, countDown_toNat s.ST⟩
  · exact nomatch (step_halted hfault (.inr hmove)).symm.trans hnext

end Sys2Proof.Machine

/-! PROOFS. The statements about encoding (30_encoding.md): the encoder's word is the canonical spelling of its
instruction's row, every word that spells a row is selected by it, and a word that spells a row is the encoding of what
it decodes to. -/

namespace Sys2Proof

open Sys2Proof.Laws

/-! ## The canonical spelling (R85, R86) -/

/-- The encoder's word is the canonical spelling of its instruction's row. -/
theorem Instr.row_spells_encode : ∀ i : Instr, i.row.spells (encode i) = true
  | .cls => EncodeRow.cls
  | .ret => EncodeRow.ret
  | .jp nnn => EncodeRow.jp nnn
  | .call nnn => EncodeRow.call nnn
  | .seImm x nn => EncodeRow.seImm x nn
  | .sneImm x nn => EncodeRow.sneImm x nn
  | .seReg x y => EncodeRow.seReg x y
  | .ldImm x nn => EncodeRow.ldImm x nn
  | .addImm x nn => EncodeRow.addImm x nn
  | .ldReg x y => EncodeRow.ldReg x y
  | .orReg x y => EncodeRow.orReg x y
  | .andReg x y => EncodeRow.andReg x y
  | .xorReg x y => EncodeRow.xorReg x y
  | .addReg x y => EncodeRow.addReg x y
  | .subReg x y => EncodeRow.subReg x y
  | .shr x y => EncodeRow.shr x y
  | .subnReg x y => EncodeRow.subnReg x y
  | .shl x y => EncodeRow.shl x y
  | .sneReg x y => EncodeRow.sneReg x y
  | .ldI nnn => EncodeRow.ldI nnn
  | .jpV0 nnn => EncodeRow.jpV0 nnn
  | .rnd x nn => EncodeRow.rnd x nn
  | .drw x y n => EncodeRow.drw x y n
  | .skp x => EncodeRow.skp x
  | .sknp x => EncodeRow.sknp x
  | .ldVxDt x => EncodeRow.ldVxDt x
  | .ldVxK x => EncodeRow.ldVxK x
  | .ldDtVx x => EncodeRow.ldDtVx x
  | .ldStVx x => EncodeRow.ldStVx x
  | .addIVx x => EncodeRow.addIVx x
  | .ldFVx x => EncodeRow.ldFVx x
  | .ldBVx x => EncodeRow.ldBVx x
  | .storeRegs x => EncodeRow.storeRegs x
  | .loadRegs x => EncodeRow.loadRegs x

/-- The canonical mask of every row fixes at least the bits that select it, at the same values. -/
theorem canonMask_and_mask_of_mem_opTable :
    ∀ r ∈ opTable, r.canonMask &&& r.mask = r.mask ∧ r.canonPat &&& r.mask = r.pat := by
  decide

/-- A word that spells a row is selected by it. -/
theorem Instr.row_selects_of_spells {i : Instr} {w : Word} (h : i.row.spells w = true) :
    i.row.selects w = true := by
  obtain ⟨hmask, hpat⟩ := canonMask_and_mask_of_mem_opTable _ i.row_mem_opTable
  rw [OpRow.spells, beq_iff_eq] at h
  rw [OpRow.selects, beq_iff_eq, ← hmask, ← BitVec.and_assoc, h, hpat]

/-- The operands of the encoder's word are the instruction's own (R81). -/
@[simp] theorem Instr.withFieldsOf_encode (i : Instr) : i.withFieldsOf (encode i) = i := by
  cases i <;> simp [Instr.withFieldsOf, encode]

/-- Settles O1: the row of the instruction selects the encoder's word, so it decodes to that row's instruction
(`decode_of_selects`), with the operands the encoder put in. -/
theorem decodeOfEncodeIsTheInstruction : Obligations.DecodeOfEncodeIsTheInstruction := fun i => by
  rw [decode_of_selects (Instr.row_selects_of_spells i.row_spells_encode), i.withFieldsOf_encode]

/-- The canonical spelling leaves no bit but the operands': encoding the row's instruction with the operands a word
gives rebuilds the word. The split is by the format of the row (R81). -/
theorem encode_withFieldsOf_of_spells {i : Instr} {w : Word} (h : i.row.spells w = true) :
    encode (i.withFieldsOf w) = w := by
  rw [OpRow.spells, beq_iff_eq] at h
  cases i with
  | cls | ret => exact h.symm.trans BitVec.and_allOnes
  | jp | call | ldI | jpV0 =>
    have hF := fieldF_of_mask h
    dsimp only [Instr.row] at hF
    refine Eq.trans ?_ (wordNNN_fields w)
    rw [hF]
    rfl
  | seImm | sneImm | ldImm | addImm | rnd =>
    have hF := fieldF_of_mask h
    dsimp only [Instr.row] at hF
    refine Eq.trans ?_ (wordXNN_fields w)
    rw [hF]
    rfl
  | drw =>
    have hF := fieldF_of_mask h
    dsimp only [Instr.row] at hF
    refine Eq.trans ?_ (wordXYN_fields w)
    rw [hF]
    rfl
  | seReg | ldReg | orReg | andReg | xorReg | addReg | subReg | shr | subnReg | shl | sneReg =>
    obtain ⟨hF, hN⟩ := fieldFN_of_mask h
    dsimp only [Instr.row] at hF hN
    refine Eq.trans ?_ (wordXYN_fields w)
    rw [hF, hN]
    rfl
  | skp | sknp | ldVxDt | ldVxK | ldDtVx | ldStVx | addIVx | ldFVx | ldBVx | storeRegs | loadRegs =>
    obtain ⟨hF, hNN⟩ := fieldFNN_of_mask h
    dsimp only [Instr.row] at hF hNN
    refine Eq.trans ?_ (wordXNN_fields w)
    rw [hF, hNN]
    rfl

/-- Settles O2: a canonical word spells some row, whose instruction it decodes to and is the encoding of
(`encode_withFieldsOf_of_spells`); and every encoding spells its own row (`Instr.row_spells_encode`). -/
theorem canonicalWordsAreTheEncodings : Obligations.CanonicalWordsAreTheEncodings := by
  refine fun w => ⟨fun hcanon => ?_, ?_⟩
  · obtain ⟨r, hr, hspells⟩ := List.any_eq_true.1 hcanon
    obtain ⟨i, rfl⟩ := exists_row_eq_of_mem_opTable hr
    exact ⟨_, decode_of_selects (Instr.row_selects_of_spells hspells), encode_withFieldsOf_of_spells hspells⟩
  · rintro ⟨i, -, rfl⟩
    exact List.any_eq_true.2 ⟨i.row, i.row_mem_opTable, i.row_spells_encode⟩

/-! ## Don't-care bits and unknown words (R85, R87) -/

/-- Within family 0x0 the instruction is a matter of `N` alone (R84, R85). -/
theorem decodeFamily0_eq_instr_iff {w v : Word} (hN : fieldN w = fieldN v) (i : Instr) :
    decodeFamily0 w = .instr i ↔ decodeFamily0 v = .instr i := by
  rw [decodeFamily0, decodeFamily0, hN]
  split
  · rfl
  · rfl
  · exact ⟨nofun, nofun⟩

/-- Settles O4: within family 0x0 `N` decides (`decodeFamily0_eq_instr_iff`); families 0x5 and 0x9 are one row each,
whose instruction reads `X` and `Y` alone (`decode_of_selects`). -/
theorem dontCareBitsAreIgnored : Obligations.DontCareBitsAreIgnored := by
  refine fun w v hfam => ⟨fun hF hN i => ?_, ?_⟩
  · rw [decode_of_family0 hF, decode_of_family0 (hfam.symm.trans hF)]
    exact decodeFamily0_eq_instr_iff hN i
  · rintro (hF | hF) hX hY
    · have hsel {u : Word} (hu : fieldF u = 0x5) : decode u = .instr (.seReg (fieldX u) (fieldY u)) :=
        selectedBy_row (.seReg 0 0) u (mask_eq_of_fieldF hu)
      rw [hsel hF, hsel (hfam.symm.trans hF), hX, hY]
    · have hsel {u : Word} (hu : fieldF u = 0x9) : decode u = .instr (.sneReg (fieldX u) (fieldY u)) :=
        selectedBy_row (.sneReg 0 0) u (mask_eq_of_fieldF hu)
      rw [hsel hF, hsel (hfam.symm.trans hF), hX, hY]

/-! The unknown words of the four families with a sub-select (R87). -/

theorem decodeFamily0_eq_unknown_iff (w : Word) :
    decodeFamily0 w = .unknown w ↔ fieldN w ∉ ([0x0, 0xE] : List Nibble) := by
  unfold decodeFamily0
  split <;> simp_all

theorem decodeFamily8_eq_unknown_iff (w : Word) :
    decodeFamily8 w = .unknown w ↔ fieldN w ∈ ([0x8, 0x9, 0xA, 0xB, 0xC, 0xD, 0xF] : List Nibble) := by
  unfold decodeFamily8
  split
  case h_10 =>
    simp only [true_iff]
    generalize fieldN w = n at *
    revert n
    decide
  all_goals simp [*]

theorem decodeFamilyE_eq_unknown_iff (w : Word) :
    decodeFamilyE w = .unknown w ↔ fieldNN w ∉ ([0x9E, 0xA1] : List Byte) := by
  unfold decodeFamilyE
  split <;> simp_all

theorem decodeFamilyF_eq_unknown_iff (w : Word) :
    decodeFamilyF w = .unknown w ↔
      fieldNN w ∉ ([0x07, 0x0A, 0x15, 0x18, 0x1E, 0x29, 0x33, 0x55, 0x65] : List Byte) := by
  unfold decodeFamilyF
  split <;> simp_all

/-- A word of a family without a sub-select is an instruction (R84). -/
theorem decode_ne_unknown_of_family {w u : Word} (hF : fieldF w ∉ ([0x0, 0x8, 0xE, 0xF] : List Nibble)) :
    decode w ≠ .unknown u := by
  unfold decode
  split
  case h_1 h | h_9 h | h_15 h => simp [h] at hF
  case h_16 =>
    exfalso
    generalize fieldF w = f at *
    revert f
    decide
  all_goals exact nofun

/-- Settles O5: the four families with a sub-select have their unknown words by their own lemmas, and the others have
none (`decode_ne_unknown_of_family`). -/
theorem unknownWordsByFamily : Obligations.UnknownWordsByFamily := by
  intro w
  by_cases h0 : fieldF w = 0x0
  · rw [decode_of_family0 h0, decodeFamily0_eq_unknown_iff]
    simp [h0]
  by_cases h8 : fieldF w = 0x8
  · rw [decode_of_family8 h8, decodeFamily8_eq_unknown_iff]
    simp [h8]
  by_cases hE : fieldF w = 0xE
  · rw [decode_of_familyE hE, decodeFamilyE_eq_unknown_iff]
    simp [hE]
  by_cases hF : fieldF w = 0xF
  · rw [decode_of_familyF hF, decodeFamilyF_eq_unknown_iff]
    simp [hF]
  · have hknown : decode w ≠ .unknown w := decode_ne_unknown_of_family (by simp_all)
    simp only [hknown, h0, h8, hE, hF, false_and, or_self]

/-- Settles O6: fifteen words, decoded. -/
theorem wordsOfTheSpecDecode : Obligations.WordsOfTheSpecDecode := by
  unfold Obligations.WordsOfTheSpecDecode
  decide

end Sys2Proof

/-! PROOFS. What an instruction can do, said once (`exec_cases`): it goes on, changing at most what it names, or it
raises one of four faults. The statements about every instruction read off the part they speak of. -/

namespace Sys2Proof

/-- The instructions that write the framebuffer (43_display.md R186). -/
def Instr.paints : Instr → Bool
  | .cls | .drw _ _ _ => true
  | _ => false

theorem Instr.paints_eq_true_iff {i : Instr} :
    i.paints = true ↔ i = .cls ∨ ∃ x y n, i = .drw x y n := by
  cases i <;> simp [Instr.paints]

/-- The instructions that store at `I` (42_index_memory.md R164, R165). -/
abbrev Instr.Stores (i : Instr) : Prop := (∃ x, i = .ldBVx x) ∨ ∃ x, i = .storeRegs x

end Sys2Proof

namespace Sys2Proof.Machine

open Config

/-- What an instruction that raises nothing may change, one field per part of the state. A field left out where one of
these is built is a part the instruction does not touch. -/
structure GoesOn (i : Instr) (s t : State) : Prop where
  status : t.status = s.status := by rfl
  params : t.params = s.params := by rfl
  reg : ∀ r, t.reg r ≠ s.reg r → i.writesReg r := by exact fun _ h => absurd rfl h
  index : t.I ≠ s.I → (∃ a, i = .ldI a) ∨ (∃ x, i = .addIVx x) ∨ ∃ x, i = .ldFVx x := by
    exact fun h => absurd rfl h
  pc : t.pc = s.pc + 2 ∨ i.setsPc = true ∧ (s.pc.toNat ≤ 4094 → s.StackBound → t.PcBound) := by exact .inl rfl
  stack : t.stack = s.stack ∨ (∃ a, i = .call a) ∧ ∃ h, t.stack = s.stack.set s.sp.val (s.pc + 2) h := by
    exact .inl rfl
  sp : t.sp ≠ s.sp → i = .ret ∨ ∃ a, i = .call a := by exact fun h => absurd rfl h
  DT : t.DT = s.DT ∨ ∃ x, i = .ldDtVx x := by exact .inl rfl
  ST : t.ST = s.ST ∨ ∃ x, i = .ldStVx x := by exact .inl rfl
  picture : i.paints = true ∧ t.draw = true ∨ i.paints = false ∧ t.fb = s.fb ∧ t.draw = s.draw := by
    exact .inr ⟨rfl, rfl, rfl⟩
  byte : ∀ a, t.byteAt a ≠ s.byteAt a → i.Stores ∧ s.I.toNat ≤ a ∧ a < s.I.toNat + i.dataBytes := by
    exact fun _ h => absurd rfl h
  memWf : s.memWf → t.memWf := by exact id

/-- What the state after a raise keeps, whether or not a data access has faulted part-way (R222). -/
structure Raised (s t : State) (k : FaultKind) : Prop where
  status : t.status = .faulted { kind := k, pc := s.pc }
  params : t.params = s.params
  memWf : s.memWf → t.memWf

/-- When an instruction raises a fault (60_exceptions.md R220, R223 to R226). -/
def MayRaise (i : Instr) (s : State) (k : FaultKind) : Prop :=
  (k = .stackUnderflow ∧ i = .ret ∧ s.sp.val = 0) ∨
  (k = .stackOverflow ∧ (∃ a, i = .call a) ∧ s.sp.val = 16) ∨
  (k = .memoryOutOfRange s.firstBad ∧ 0 < i.dataBytes ∧ 4096 < s.I.toNat + i.dataBytes) ∨
  ∃ x, k = .keyIndexOutOfRange (s.reg x) ∧ 15 < (s.reg x).toNat ∧ (i = .skp x ∨ i = .sknp x)

theorem State.raised_raise (s : State) (k : FaultKind) : Raised s (s.raise k) k := ⟨rfl, rfl, id⟩

theorem State.raised_raiseData (s : State) :
    Raised s (s.raiseData (max s.I.toNat memSize)) (.memoryOutOfRange s.firstBad) := by
  obtain ⟨-, hparams, -, -, hwf⟩ := s.raiseData_spec (max s.I.toNat memSize)
  exact ⟨s.raiseData_max_status, hparams, fun _ => hwf⟩

/-- A block in which a fault has been raised does not run. -/
theorem Raised.not_running {s t : State} {k : FaultKind} (h : Raised s t k) : ¬t.Running := by
  intro hrun
  exact nomatch hrun.symm.trans h.status

/-! ## The data accesses (R62, R160) -/

/-- What an instruction stores is as long as its data (R164, R165). -/
theorem State.storedBytes_length (s : State) {i : Instr} (h : i.Stores) :
    (s.storedBytes i).length = i.dataBytes := by
  obtain ⟨x, rfl⟩ | ⟨x, rfl⟩ := h
  · rfl
  · exact s.regsTo_length x

/-- A storing instruction is a store at `I` of its bytes. -/
theorem exec_of_stores {i : Instr} (h : i.Stores) (s : State) :
    exec i s = .next (s.storeAtI (s.storedBytes i)) := by
  obtain ⟨x, rfl⟩ | ⟨x, rfl⟩ := h <;> rfl

theorem Instr.Stores.dataBytes_pos {i : Instr} (h : i.Stores) : 0 < i.dataBytes := by
  obtain ⟨x, rfl⟩ | ⟨x, rfl⟩ := h <;> exact Nat.succ_pos _

/-- An instruction whose data leaves the array raises the first address past the end (R160, R225). -/
theorem exec_of_data_out {i : Instr} {s : State} (hpos : 0 < i.dataBytes)
    (hout : memSize < s.I.toNat + i.dataBytes) :
    exec i s = .next (s.raiseData (max s.I.toNat memSize)) := by
  have hstore (hi : i.Stores) : exec i s = .next (s.raiseData (max s.I.toNat memSize)) := by
    have hlen := s.storedBytes_length hi
    rw [exec_of_stores hi, State.storeAtI_error (List.ne_nil_of_length_pos (by omega)) (by omega)]
  cases i with
  | drw x y n => exact execDrw_error (fun hn => absurd hpos (by simp [hn, Instr.dataBytes])) hout
  | ldBVx x => exact hstore (.inl ⟨x, rfl⟩)
  | storeRegs x => exact hstore (.inr ⟨x, rfl⟩)
  | loadRegs x => exact execLoadRegs_error hout
  | _ => exact absurd hpos (Nat.lt_irrefl 0)

/-! ## The forms of an instruction that goes on -/

/-- One register written. -/
theorem GoesOn.setReg_advance {i : Instr} (s : State) (x : Nibble) (v : Byte)
    (hx : i.writesReg x) (hpaint : i.paints = false) : GoesOn i s (s.setReg x v).advance where
  reg r hr := by
    by_cases hrx : r = x
    · exact hrx ▸ hx
    · exact absurd (s.setReg_reg_of_ne v hrx) hr
  picture := .inr ⟨hpaint, rfl, rfl⟩

/-- The flag written, and one register (R10). -/
theorem GoesOn.aluFlagged {i : Instr} (s : State) (x y : Nibble) (flag f : Byte → Byte → Byte)
    (hi : ∀ r, r = x ∨ r = 0xF → i.writesReg r) (hpaint : i.paints = false) :
    GoesOn i s (s.aluFlagged x y flag f) where
  reg r hr := by
    by_contra hn
    obtain ⟨hx, hF⟩ := not_or.1 fun h => hn (hi r h)
    exact hr (((s.aluFlagged_spec x y flag f).2 r).trans ((if_neg hx).trans (if_neg hF)))
  picture := .inr ⟨hpaint, rfl, rfl⟩

/-- A skip from a `pc` that was fetched from stays below the bound. -/
theorem State.skipIf_pcBound {s : State} (c : Bool) (h : s.pc.toNat ≤ 4094) : (s.skipIf c).PcBound := by
  unfold State.PcBound
  rw [State.skipIf_pc]
  split <;> bv_omega

/-- A skip. -/
theorem GoesOn.skipIf {i : Instr} (s : State) (c : Bool) (hpc : i.setsPc = true) (hpaint : i.paints = false) :
    GoesOn i s (s.skipIf c) where
  pc := .inr ⟨hpc, fun h _ => s.skipIf_pcBound c h⟩
  picture := .inr ⟨hpaint, rfl, rfl⟩

/-- A store whose bytes lie in the array. -/
theorem GoesOn.storeAtI {i : Instr} {s : State} (hi : i.Stores) (hin : s.DataInRange i.dataBytes) :
    GoesOn i s (s.storeAtI (s.storedBytes i)) := by
  rw [← s.storedBytes_length hi] at hin
  obtain ⟨-, -, hkept⟩ := State.storeAtI_of_inRange hin
  have hbyte (a : Nat) (ha : (s.storeAtI (s.storedBytes i)).byteAt a ≠ s.byteAt a) :
      s.I.toNat ≤ a ∧ a < s.I.toNat + i.dataBytes := by
    by_contra hn
    exact ha (hkept a (s.storedBytes_length hi ▸ hn))
  have hpaint : i.paints = false := by
    obtain ⟨x, rfl⟩ | ⟨x, rfl⟩ := hi <;> rfl
  obtain ⟨m, hm, -, hwf⟩ := State.storeAtI_ok hin
  rw [hm] at hbyte ⊢
  exact { picture := .inr ⟨hpaint, rfl, rfl⟩, byte := fun a ha => ⟨hi, hbyte a ha⟩, memWf := hwf }

/-- `FX0A`: with a key picked a register is written, with none at most `pc` (R205). -/
theorem GoesOn.takeKey (s : State) (x : Nibble) (key : Option Nibble) :
    GoesOn (.ldVxK x) s (s.drawnInput.takeKey x key) := by
  unfold State.takeKey
  split
  case h_1 k => exact { reg := (GoesOn.setReg_advance (i := .ldVxK x) s x (k.setWidth 8) rfl rfl).reg }
  case h_2 =>
    split
    · exact {}
    · exact { pc := .inr ⟨rfl, fun h _ => Nat.le_trans h (by decide)⟩ }

/-- A drawing: the flag and the picture (R181). -/
theorem GoesOn.drw (s : State) (x y n : Nibble) (flag : Byte) (f : Frame) :
    GoesOn (.drw x y n) s ((s.setReg flagReg flag).paint f).advance where
  reg r hr := by
    by_contra hF
    exact hr (s.setReg_reg_of_ne flag hF)
  picture := .inl ⟨rfl, rfl⟩

/-- All of `V` replaced. Said for any `V`, so that no proof evaluates the one `FX65` loads. -/
theorem GoesOn.setV_advance {i : Instr} (s : State) (v : Vector Byte 16)
    (hreg : ∀ r, (s.setV v).reg r ≠ s.reg r → i.writesReg r) (hpaint : i.paints = false) :
    GoesOn i s (s.setV v).advance where
  reg := hreg
  picture := .inr ⟨hpaint, rfl, rfl⟩

/-- A load of registers from `I` on: none above `X` (R166). -/
theorem GoesOn.loadRegs (s : State) (x : Nibble) (bytes : List Byte) (hlen : bytes.length = x.toNat + 1) :
    GoesOn (.loadRegs x) s (s.setV (withLeading s.V bytes)).advance := by
  refine GoesOn.setV_advance s _ (fun r hr => ?_) rfl
  by_contra hx
  have hnone : bytes[r.toNat]? = none := List.getElem?_eq_none (hlen ▸ Nat.lt_of_not_le hx)
  exact hr ((withLeading_reg s bytes r).trans (by rw [hnone, Option.getD_none]))

/-! ## Every instruction -/

/-- What an instruction can answer: a state it goes on to, or one in which it has raised a fault of its own. -/
def Answers (i : Instr) (s : State) (o : Host.Outcome State Fault Refusal) : Prop :=
  ∃ t, o = .next t ∧ (GoesOn i s t ∨ ∃ k, MayRaise i s k ∧ Raised s t k)

theorem GoesOn.answers {i : Instr} {s t : State} (h : GoesOn i s t) : Answers i s (.next t) :=
  ⟨t, rfl, .inl h⟩

theorem Raised.answers {i : Instr} {s t : State} {k : FaultKind} (h : Raised s t k) (hk : MayRaise i s k) :
    Answers i s (.next t) :=
  ⟨t, rfl, .inr ⟨k, hk, h⟩⟩

/-- A return goes to an address of the stack, or finds none held (R111, R224). -/
theorem execRet_answers (s : State) : Answers .ret s (execRet s) := by
  obtain hempty | hpos := Nat.eq_zero_or_pos s.sp.val
  · rw [execRet_empty hempty]
    exact (s.raised_raise _).answers (.inl ⟨rfl, rfl, hempty⟩)
  · rw [execRet_of_pos hpos]
    exact GoesOn.answers {
      sp := fun _ => .inl rfl
      pc := .inr ⟨rfl, fun _ hstack => Nat.le_trans (hstack ⟨s.sp.val - 1, by omega⟩) (by decide)⟩ }

/-- A target of 12 bits is below the bound on `pc`. -/
theorem zextAddr_le (nnn : Addr) : (zextAddr nnn).toNat ≤ 0xFFF :=
  (zextAddr_toNat nnn).trans_le (Nat.le_of_lt_succ nnn.isLt)

/-- A computed jump's sum is exact, since a byte and 12 bits fit in a word (R118, D12). -/
theorem jumpTarget_toNat (v : Byte) (nnn : Addr) : (jumpTarget v nnn).toNat = v.toNat + nnn.toNat := by
  have hv : (zextByte v).toNat = v.toNat := BitVec.toNat_setWidth_of_le (by decide)
  have hlt : v.toNat + nnn.toNat < 2 ^ 16 := by
    have := v.isLt
    have := nnn.isLt
    omega
  rw [jumpTarget, BitVec.toNat_add, hv, zextAddr_toNat, Nat.mod_eq_of_lt hlt]

/-- A call pushes and jumps, or finds the stack full (R113, R223). -/
theorem execCall_answers (nnn : Addr) (s : State) : Answers (.call nnn) s (execCall nnn s) := by
  by_cases hroom : s.sp.val < 16
  · rw [execCall_of_lt hroom]
    exact GoesOn.answers {
      stack := .inr ⟨⟨nnn, rfl⟩, hroom, rfl⟩
      sp := fun _ => .inr ⟨nnn, rfl⟩
      pc := .inr ⟨rfl, fun _ _ => Nat.le_trans (zextAddr_le nnn) (by decide)⟩ }
  · have hfull : s.sp.val = 16 := by omega
    rw [execCall_full hfull]
    exact (s.raised_raise _).answers (.inr (.inl ⟨rfl, ⟨nnn, rfl⟩, hfull⟩))

/-- A key skip skips, or finds its value above 15 (R202, R203, R226). -/
theorem State.skipOnKey_answers {i : Instr} (s : State) (x : Nibble) (wanted : Bool) (hi : i = .skp x ∨ i = .sknp x) :
    Answers i s (.next (s.skipOnKey x wanted)) := by
  have hpaint : i.paints = false := by
    obtain rfl | rfl := hi <;> rfl
  have hpc : i.setsPc = true := by
    obtain rfl | rfl := hi <;> rfl
  obtain ⟨hv, heq⟩ | ⟨-, heq⟩ := s.skipOnKey_spec x wanted
  · rw [heq]
    exact (s.raised_raise _).answers (.inr (.inr (.inr ⟨x, rfl, hv, hi⟩)))
  · rw [heq]
    exact GoesOn.answers {
      pc := .inr ⟨hpc, fun h _ => s.skipIf_pcBound _ h⟩
      picture := .inr ⟨hpaint, rfl, rfl⟩ }

/-- Every instruction goes on or raises one of its faults. -/
theorem exec_answers (i : Instr) (s : State) : Answers i s (exec i s) := by
  by_cases hdata : 0 < i.dataBytes ∧ memSize < s.I.toNat + i.dataBytes
  · rw [exec_of_data_out hdata.1 hdata.2]
    exact s.raised_raiseData.answers (.inr (.inr (.inl ⟨rfl, hdata⟩)))
  · cases i with
    | cls => exact GoesOn.answers { picture := .inl ⟨rfl, rfl⟩ }
    | ret => exact execRet_answers s
    | call nnn => exact execCall_answers nnn s
    | jp nnn =>
      exact GoesOn.answers { pc := .inr ⟨rfl, fun _ _ => Nat.le_trans (zextAddr_le nnn) (by decide)⟩ }
    | jpV0 nnn =>
      exact GoesOn.answers { pc := .inr ⟨rfl, fun _ _ => by
        have := (s.reg 0).isLt
        have := nnn.isLt
        exact (jumpTarget_toNat _ nnn).trans_le (by omega)⟩ }
    | seImm | sneImm | seReg | sneReg => exact GoesOn.answers (GoesOn.skipIf s _ rfl rfl)
    | ldImm | addImm | ldReg | orReg | andReg | xorReg | ldVxDt =>
      exact GoesOn.answers (GoesOn.setReg_advance s _ _ rfl rfl)
    | rnd x nn =>
      exact GoesOn.answers { reg := (GoesOn.setReg_advance (i := .rnd x nn) s x _ rfl rfl).reg }
    | addReg | subReg | shr | subnReg | shl =>
      exact GoesOn.answers (GoesOn.aluFlagged s _ _ _ _ (fun _ hr => hr) rfl)
    | ldI nnn => exact GoesOn.answers { index := fun _ => .inl ⟨nnn, rfl⟩ }
    | addIVx x => exact GoesOn.answers { index := fun _ => .inr (.inl ⟨x, rfl⟩) }
    | ldFVx x => exact GoesOn.answers { index := fun _ => .inr (.inr ⟨x, rfl⟩) }
    | ldDtVx x => exact GoesOn.answers { DT := .inr ⟨x, rfl⟩ }
    | ldStVx x => exact GoesOn.answers { ST := .inr ⟨x, rfl⟩ }
    | skp x => exact s.skipOnKey_answers x true (.inl rfl)
    | sknp x => exact s.skipOnKey_answers x false (.inr rfl)
    | ldVxK x => exact (GoesOn.takeKey s x _).answers
    | drw x y n =>
      have hin : s.I.toNat + n.toNat ≤ memSize ∨ n = 0 := by
        obtain hn | hin := not_and_or.1 hdata
        · exact .inr (BitVec.eq_of_toNat_eq (Nat.eq_zero_of_not_pos hn))
        · exact .inl (Nat.le_of_not_lt hin)
      obtain ⟨bytes, -, hexec⟩ := execDrw_ok (x := x) (y := y) hin
      exact ⟨_, hexec, .inl (GoesOn.drw s x y n _ _)⟩
    | ldBVx x =>
      have hin := Nat.le_of_not_lt (not_and.1 hdata (Nat.succ_pos _))
      exact (GoesOn.storeAtI (.inl ⟨x, rfl⟩) hin).answers
    | storeRegs x =>
      have hin := Nat.le_of_not_lt (not_and.1 hdata (Nat.succ_pos _))
      exact (GoesOn.storeAtI (.inr ⟨x, rfl⟩) hin).answers
    | loadRegs x =>
      have hin := Nat.le_of_not_lt (not_and.1 hdata (Nat.succ_pos _))
      exact ⟨_, execLoadRegs_ok hin, .inl (GoesOn.loadRegs s x _ (by simp))⟩

/-- An instruction after which the block runs has gone on. -/
theorem exec_goesOn {i : Instr} {s t : State} (h : exec i s = .next t) (hrun : t.Running) : GoesOn i s t := by
  obtain ⟨t', ht, hgo | ⟨k, -, hraised⟩⟩ := exec_answers i s
  · exact Host.Outcome.next.inj (h.symm.trans ht) ▸ hgo
  · cases h.symm.trans ht
    exact absurd hrun hraised.not_running

/-! ## The statements -/

/-- Settles O22: the part of `GoesOn` about memory. -/
theorem onlyStoresWriteMemory : Obligations.OnlyStoresWriteMemory :=
  fun _ _ _ h hrun => (exec_goesOn h hrun).byte

/-- Settles O37: the part of `GoesOn` about the registers. -/
theorem onlyNamedRegistersChange : Obligations.OnlyNamedRegistersChange :=
  fun _ _ _ r h hrun => (exec_goesOn h hrun).reg r

/-- Settles O44: the part of `GoesOn` about `I`. -/
theorem onlyIndexInstructionsChangeI : Obligations.OnlyIndexInstructionsChangeI :=
  fun _ _ _ h hrun => (exec_goesOn h hrun).index

/-- Settles O30: an instruction that does not set `pc` adds 2, which cannot wrap where a fetch succeeded. -/
theorem pcAdvancesByTwoUnlessItIsSet : Obligations.PcAdvancesByTwoUnlessItIsSet := by
  intro i s t h hrun hset hpc
  obtain hnext | ⟨hset', -⟩ := (exec_goesOn h hrun).pc
  · rw [hnext]
    bv_omega
  · exact absurd (hset.symm.trans hset') Bool.false_ne_true

/-- Settles O48: the two instructions that paint (`Instr.paints_eq_true_iff`) set the draw-flag, the others leave the
picture. -/
theorem onlyClsAndDrwPaint : Obligations.OnlyClsAndDrwPaint := by
  intro i s t h hrun
  obtain ⟨hpaint, hdraw⟩ | ⟨hpaint, hkept⟩ := (exec_goesOn h hrun).picture
  · refine ⟨fun _ => hdraw, fun hcls hdrw => ?_⟩
    obtain rfl | ⟨x, y, n, rfl⟩ := Instr.paints_eq_true_iff.1 hpaint
    · exact absurd rfl hcls
    · exact absurd rfl (hdrw x y n)
  · refine ⟨fun hi => ?_, fun _ _ => hkept⟩
    exact absurd (hpaint.symm.trans (Instr.paints_eq_true_iff.2 hi)) Bool.false_ne_true

/-- Settles O53: the parts of `GoesOn` about the slots and `sp`. -/
theorem onlyCallAndReturnUseTheStack : Obligations.OnlyCallAndReturnUseTheStack := by
  intro i s t h hrun
  have hgo := exec_goesOn h hrun
  refine ⟨fun hstack => ?_, hgo.sp⟩
  obtain hkept | ⟨hcall, -⟩ := hgo.stack
  · exact absurd hkept hstack
  · exact hcall

/-- Settles O54: an instruction that goes on keeps the status, and one that raises does so as `MayRaise` says. -/
theorem everyInstructionAnswersANextState : Obligations.EveryInstructionAnswersANextState := by
  intro i s
  obtain ⟨t, ht, hgo | ⟨k, hk, hraised⟩⟩ := exec_answers i s
  · exact ⟨t, ht, fun hrun => .inl (hgo.status.trans hrun)⟩
  · exact ⟨t, ht, fun _ => .inr ⟨k, hraised.status, hk⟩⟩

end Sys2Proof.Machine

/-! PROOFS. What a step can do, said once (`step_cases`), and the statements over steps: the cycle, the host's moves,
faults, loads, the parameters, the timers, the held addresses and the invariant. -/

namespace Sys2Proof

/-- A table word that is an instruction is a word the decoder answers it for: its two bytes are the word again (R55). -/
theorem decode_of_decodeTableWord {nbits w : Nat} {i : Instr} (h : decodeTableWord nbits w = some i) :
    decode (tableWord nbits w) = .instr i := by
  simp only [decodeTableWord, decodeBytes, wordOfBytes_bytes] at h
  cases hd : decode (tableWord nbits w) with
  | instr j =>
    rw [hd] at h
    rw [← Option.some.inj h]
  | unknown u =>
    rw [hd] at h
    exact nomatch h

end Sys2Proof

namespace Sys2Proof.Machine

open Config

/-! ## The cycle (30_encoding.md R89) -/

/-- A cycle whose fetch leaves the array raises its fault (R225, R227). -/
theorem State.runCycle_fetch_error {s : State} {a : Nat} (hfetch : s.fetch = .error a) :
    s.runCycle = .next (s.raise (.memoryOutOfRange a)) := by
  simp only [State.runCycle, hfetch]

/-- A cycle runs the instruction fetched (R89). -/
theorem State.runCycle_instr {s : State} {w : Word} {i : Instr} (hfetch : s.fetch = .ok w)
    (hd : decode w = .instr i) : s.runCycle = exec i s := by
  simp only [State.runCycle, hfetch, hd]

/-- A fetch that answers a word is from an address below the last (R55). -/
theorem State.pc_le_of_fetch_ok {s : State} {w : Word} (h : s.fetch = .ok w) : s.pc.toNat ≤ 4094 := by
  have hsize : memSize = 4096 := rfl
  obtain ⟨hpc, -⟩ | ⟨-, hfetch⟩ | ⟨-, hfetch⟩ := s.fetch_cases
  · omega
  · exact nomatch hfetch.symm.trans h
  · exact nomatch hfetch.symm.trans h

/-- Settles O7: a cycle step of a running block (`step_cycle`) fetches what the state before it would, and runs it. -/
theorem stepRunsTheDecodedInstruction : Obligations.StepRunsTheDecodedInstruction := by
  intro s w i hrun hmove hfetch hd
  rw [step_cycle hrun hmove, State.runCycle_instr (s.dropMove_fetch.trans hfetch) hd]
  rfl

/-- The place of an instruction can be fetched from. -/
theorem State.fetchPlace_lt (s : State) : s.fetchPlace.toNat + 1 < memSize := by
  unfold State.fetchPlace
  split
  · assumption
  · decide

/-- A word placed at an address reads back as its two bytes (R53, R55). -/
theorem State.placeWord_byteAt (s : State) (a : Nat) (w : Word) :
    (s.placeWord a w).byteAt a = highByte w ∧ (s.placeWord a w).byteAt (a + 1) = lowByte w := by
  refine ⟨(Memory.byteAt_setByte_ne _ _ _ (Nat.succ_ne_self a).symm).trans ?_, Memory.byteAt_setByte_same _ _ _ _⟩
  exact Memory.byteAt_setByte_same _ _ _ _

/-- The word placed is the word fetched. -/
theorem State.withFetchWord_fetch (s : State) (nbits w : Nat) :
    (s.withFetchWord nbits w).fetch = .ok (tableWord nbits w) := by
  have hlt : (s.withFetchWord nbits w).pc.toNat + 1 < memSize := s.fetchPlace_lt
  obtain ⟨hhigh, hlow⟩ := s.placeWord_byteAt s.fetchPlace.toNat (tableWord nbits w)
  obtain ⟨-, hfetch⟩ | ⟨hpc, -⟩ | ⟨hpc, -⟩ := (s.withFetchWord nbits w).fetch_cases
  · rw [hfetch]
    exact congrArg Except.ok ((congrArg₂ wordOfBytes hhigh hlow).trans (wordOfBytes_bytes _))
  · omega
  · omega

/-- A `Cycle` is the next move once one is put first. -/
theorem cycleFirst_headD (l : List HostMove) : (cycleFirst l).headD .cycle = .cycle := by
  unfold cycleFirst
  split <;> rfl

/-- Settles O8: the state as placed runs, its next move is a cycle (`cycleFirst_headD`), and the word fetched is the one
placed (`State.withFetchWord_fetch`). -/
theorem placedWordIsRunNext : Obligations.PlacedWordIsRunNext := by
  intro s w i h
  rw [step_cycle (s := s.withFetchWord 16 w) rfl (cycleFirst_headD _)]
  exact State.runCycle_instr ((State.dropMove_fetch _).trans (s.withFetchWord_fetch 16 w))
    (decode_of_decodeTableWord h)

/-! ## Every step (60_exceptions.md R240) -/

/-- A move that is answered by a next state, and asks for a running block, found one. -/
theorem State.whileRunning_eq_next {s t : State} {go : State → Host.Outcome State Fault Refusal}
    (h : s.whileRunning go = .next t) : s.Running ∧ go s = .next t := by
  cases hstatus : s.status with
  | running => exact ⟨hstatus, (State.whileRunning_of_running hstatus go).symm.trans h⟩
  | faulted r => exact nomatch (State.whileRunning_of_faulted hstatus go).symm.trans h

/-- A cycle that answers a state has raised a fault, or fetched an instruction that has gone on. -/
theorem State.runCycle_eq_next {s t : State} (h : s.runCycle = .next t) :
    (∃ k, Raised s t k) ∨ ∃ w i, s.fetch = .ok w ∧ decode w = .instr i ∧ GoesOn i s t := by
  obtain ⟨a, -, heq⟩ | ⟨w, u, -, -, heq⟩ | ⟨w, i, hfetch, hd, heq⟩ := s.runCycle_cases
  · cases h.symm.trans heq
    exact .inl ⟨_, s.raised_raise _⟩
  · cases h.symm.trans heq
    exact .inl ⟨_, s.raised_raise _⟩
  · obtain ⟨t', ht, hans⟩ := exec_answers i s
    cases (h.symm.trans heq).trans ht
    obtain hgo | ⟨k, -, hraised⟩ := hans
    · exact .inr ⟨w, i, hfetch, hd, hgo⟩
    · exact .inl ⟨k, hraised⟩

/-- What a step can be: a load, a hand-off, a tick, or a cycle that raises a fault or runs what it fetched. -/
theorem step_cases {s t : State} (h : step s = .next t) :
    (∃ bytes, s.nextMove = .load bytes ∧ t = s.dropMove.load bytes) ∨
    (s.nextMove = .takeFrame ∧ t = s.dropMove.takeFrame) ∨
    (s.nextMove = .tick ∧ s.Running ∧ t = s.dropMove.tick) ∨
    (s.nextMove = .cycle ∧ s.Running ∧ ((∃ k, Raised s.dropMove t k) ∨
      ∃ w i, s.fetch = .ok w ∧ decode w = .instr i ∧ GoesOn i s.dropMove t)) := by
  rw [step_eq] at h
  cases hmove : s.nextMove with
  | load bytes =>
    rw [hmove] at h
    exact .inl ⟨bytes, rfl, (Host.Outcome.next.inj h).symm⟩
  | takeFrame =>
    rw [hmove] at h
    exact .inr (.inl ⟨rfl, (Host.Outcome.next.inj h).symm⟩)
  | tick =>
    rw [hmove] at h
    obtain ⟨hrun, hgo⟩ := State.whileRunning_eq_next (go := fun u => .next u.tick) h
    exact .inr (.inr (.inl ⟨rfl, hrun, (Host.Outcome.next.inj hgo).symm⟩))
  | cycle =>
    rw [hmove] at h
    obtain ⟨hrun, hgo⟩ := State.whileRunning_eq_next h
    exact .inr (.inr (.inr ⟨rfl, hrun, s.dropMove_fetch ▸ State.runCycle_eq_next hgo⟩))

/-! ## Faults (60_exceptions.md section 1) -/

/-- Settles O11: the access primitives out of range, the fetch by where `pc` lies (`State.fetch_cases`), and the data
accesses (`exec_of_data_out`). -/
theorem memoryOutOfRangeIsRaised : Obligations.MemoryOutOfRangeIsRaised := by
  refine ⟨fun s a v h => ⟨State.memRead_error h, State.memWrite_error h v⟩, fun s hrun hmove hpc => ?_,
    fun i s hpos hout => ⟨_, exec_of_data_out hpos hout, s.raiseData_max_status⟩⟩
  have hsize : memSize = 4096 := rfl
  obtain ⟨hlow, -⟩ | ⟨hlast, hfetch⟩ | ⟨hout, hfetch⟩ := s.fetch_cases
  · omega
  · rw [step_cycle hrun hmove, State.runCycle_fetch_error (s.dropMove_fetch.trans hfetch), if_neg (by omega), hlast]
    rfl
  · rw [step_cycle hrun hmove, State.runCycle_fetch_error (s.dropMove_fetch.trans hfetch), if_pos (by omega)]
    rfl

/-- The hand-off leaves the status. -/
@[simp] theorem State.takeFrame_status (s : State) : s.takeFrame.status = s.status := by
  rw [State.takeFrame_frame]

/-- A load that fits starts a run, one that does not leaves the status (R250, R251). -/
theorem State.load_status (s : State) (bytes : List Byte) :
    (s.load bytes).Running ∨ (s.load bytes).status = s.status := by
  unfold State.load
  split
  · exact .inl rfl
  · exact .inr rfl

/-- Settles O12: a cycle or tick stops (`step_halted`); a hand-off or a refused load leaves the status, a load that fits
starts a run. -/
theorem faultIsTerminalUntilALoad : Obligations.FaultIsTerminalUntilALoad := by
  refine fun s r hfault => ⟨step_halted hfault, fun t h => ?_⟩
  have hnot : ¬s.Running := fun hrun => nomatch hrun.symm.trans hfault
  obtain ⟨bytes, hmove, rfl⟩ | ⟨-, rfl⟩ | ⟨-, hrun, -⟩ | ⟨-, hrun, -⟩ := step_cases h
  · obtain hrun | hkept := s.dropMove.load_status bytes
    · exact .inr ⟨hrun, bytes, hmove⟩
    · exact .inl (hkept.trans hfault)
  · exact .inl (s.dropMove.takeFrame_status.trans hfault)
  · exact absurd hrun hnot
  · exact absurd hrun hnot

/-! ## The timers (60_exceptions.md section 3) -/

/-- Settles O14: by induction on the number of ticks, each of which takes one off (`countDown_toNat`). -/
theorem timersReachZeroAndStay : Obligations.TimersReachZeroAndStay := by
  intro n
  induction n with
  | zero => exact fun s => ⟨rfl, rfl⟩
  | succ n ih =>
    intro s
    obtain ⟨hDT, hST⟩ := ih s.tick
    have hDT' : s.tick.DT.toNat = s.DT.toNat - 1 := countDown_toNat s.DT
    have hST' : s.tick.ST.toNat = s.ST.toNat - 1 := countDown_toNat s.ST
    rw [Function.iterate_succ_apply]
    exact ⟨by omega, by omega⟩

/-- Settles O52: of the steps that are no load, a hand-off leaves the timers, a tick takes one off each, and a cycle
changes one only by its own instruction (`GoesOn`). -/
theorem timersChangeOnlyByTickOrTransfer : Obligations.TimersChangeOnlyByTickOrTransfer := by
  intro s t h hrun hload
  obtain ⟨bytes, hmove, -⟩ | ⟨-, rfl⟩ | ⟨hmove, -, rfl⟩ | ⟨hmove, -, ⟨k, hraised⟩ | ⟨w, i, hfetch, hd, hgo⟩⟩ :=
    step_cases h
  · exact absurd hmove (hload bytes)
  · rw [State.takeFrame_frame]
    exact ⟨.inl rfl, .inl rfl⟩
  · exact ⟨.inr (.inl ⟨hmove, countDown_toNat s.DT⟩), .inr (.inl ⟨hmove, countDown_toNat s.ST⟩)⟩
  · exact absurd hrun hraised.not_running
  · refine ⟨hgo.DT.imp_right fun ⟨x, hi⟩ => .inr ?_, hgo.ST.imp_right fun ⟨x, hi⟩ => .inr ?_⟩
    · exact ⟨w, x, hmove, hfetch, hi ▸ hd⟩
    · exact ⟨w, x, hmove, hfetch, hi ▸ hd⟩

/-! ## The hand-off and the load (43_display.md section 3, 70_reset_and_hazards.md section 1) -/

/-- Settles O15: the two branches of the hand-off, by the draw-flag. -/
theorem takeFrameHandsOverTheGrid : Obligations.TakeFrameHandsOverTheGrid := by
  intro s hmove
  rw [step_eq, hmove]
  refine ⟨fun hdraw => ?_, fun hdraw => ?_⟩
  · exact congrArg Host.Outcome.next (if_pos hdraw)
  · exact congrArg Host.Outcome.next (if_neg (Bool.eq_false_iff.1 hdraw))

/-- Settles O16: a step whose move is a load (`step_load`), by whether the image fits. -/
theorem loadChecksTheSize : Obligations.LoadChecksTheSize := by
  refine fun s bytes hmove => ⟨fun hlarge => ?_, fun hlen => ⟨_, step_load hmove, ?_⟩⟩
  · have hfits : imageFits s.dropMove.params.programStart bytes = false :=
      decide_eq_false (Nat.not_le_of_lt hlarge)
    rw [step_load hmove, State.load_tooLarge hfits]
    rfl
  · have hfits : imageFits s.dropMove.params.programStart bytes = true := decide_eq_true hlen
    rw [State.load_ok hfits]
    exact ⟨rfl, rfl⟩

/-- After a reset every general register is 0 (R37). -/
theorem State.resetWith_reg (p : Params) (r : Nibble) : (State.resetWith p).reg r = 0 :=
  Vector.getElem_replicate _

/-- After a reset every slot of the stack is 0 (R37). -/
theorem State.resetWith_stack (p : Params) (j : Fin 16) : (State.resetWith p).stack[j] = 0 :=
  Vector.getElem_replicate _

/-- After a reset `pc` is `PROGRAM_START` (R37). -/
theorem State.resetWith_pc (p : Params) : (State.resetWith p).pc.toNat = p.programStart.toNat :=
  zextAddr_toNat p.programStart

/-- Settles O18: a load that fits leaves every register as the reset with the block's own parameters does. -/
theorem loadResetsTheRegisters : Obligations.LoadResetsTheRegisters := by
  intro s bytes hmove hlen
  have hfits : imageFits s.dropMove.params.programStart bytes = true := decide_eq_true hlen
  refine ⟨_, step_load hmove, ?_⟩
  rw [State.load_ok hfits]
  exact ⟨State.resetWith_reg s.params, rfl, State.resetWith_pc s.params, State.resetWith_stack s.params, rfl, rfl, rfl,
    Frame.cell_clear, rfl, rfl, rfl, rfl⟩

/-- Settles O19: the reset with the default parameters; no cell of memory is listed, so each address reads the reset
image. -/
theorem resetState : Obligations.ResetState :=
  ⟨State.resetWith_reg _, rfl, State.resetWith_pc _, rfl, State.resetWith_stack _, rfl, rfl, rfl, Frame.cell_clear, rfl,
    rfl, fun _ => rfl⟩

/-! ## What every step keeps -/

/-- A load keeps the parameters, whether it fits or not (log entry 23). -/
@[simp] theorem State.load_params (s : State) (bytes : List Byte) : (s.load bytes).params = s.params := by
  unfold State.load
  split <;> rfl

@[simp] theorem State.takeFrame_params (s : State) : s.takeFrame.params = s.params := by
  rw [State.takeFrame_frame]

/-- Settles O55: no move writes the parameters. -/
theorem noStepChangesTheParameters : Obligations.NoStepChangesTheParameters := by
  intro s t h
  obtain ⟨bytes, -, rfl⟩ | ⟨-, rfl⟩ | ⟨-, -, rfl⟩ | ⟨-, -, ⟨k, hraised⟩ | ⟨w, i, -, -, hgo⟩⟩ := step_cases h
  · exact s.dropMove.load_params bytes
  · exact s.dropMove.takeFrame_params
  · rfl
  · exact hraised.params
  · exact hgo.params

/-- An instruction that goes on leaves the slots below `sp`: a call writes the one at `sp` (R113). -/
theorem GoesOn.stack_below {i : Instr} {s t : State} (h : GoesOn i s t) {j : Nat} (hj : j < s.sp.val) :
    t.stack[j]? = s.stack[j]? := by
  obtain hkept | ⟨-, hsp, hpush⟩ := h.stack
  · rw [hkept]
  · rw [hpush, Vector.getElem?_set_ne hsp (Nat.ne_of_gt hj)]

/-- Settles O58: a hand-off and a tick leave the stack, and an instruction leaves the slots below `sp`
(`GoesOn.stack_below`). -/
theorem heldAddressesAreKept : Obligations.HeldAddressesAreKept := by
  intro s t h hrun hload j hj
  obtain ⟨bytes, hmove, -⟩ | ⟨-, rfl⟩ | ⟨-, -, rfl⟩ | ⟨-, -, ⟨k, hraised⟩ | ⟨w, i, -, -, hgo⟩⟩ := step_cases h
  · exact absurd hmove (hload bytes)
  · rw [State.takeFrame_frame]
    rfl
  · rfl
  · exact absurd hrun hraised.not_running
  · exact hgo.stack_below hj

/-! ## The invariant (10_state.md sections 4 and 5, 20_memory.md section 1) -/

/-- The reset state meets the invariant: nothing is listed in memory, `pc` is 12 bits wide, the slots are 0. -/
theorem State.resetWith_inv (p : Params) : (State.resetWith p).Inv := by
  refine ⟨Memory.wf_nil p.font, fun _ => ⟨?_, fun j => ?_⟩⟩
  · exact Nat.le_trans (zextAddr_le p.programStart) (by decide)
  · rw [State.resetWith_stack]
    exact Nat.zero_le _

/-- Settles O57: the reset state is one of `State.resetWith_inv`. -/
theorem resetMeetsTheInvariant : Obligations.ResetMeetsTheInvariant :=
  ⟨State.resetWith_inv _, State.resetWith_inv⟩

/-- A load lays a canonical image over the reset state, or changes nothing the invariant speaks of. -/
theorem State.load_inv {s : State} (hs : s.Inv) (bytes : List Byte) : (s.load bytes).Inv := by
  cases hfits : imageFits s.params.programStart bytes with
  | false =>
    rw [State.load_tooLarge hfits]
    exact hs
  | true =>
    rw [State.load_ok hfits]
    exact ⟨Memory.wf_image _ _ _ ((imageFits_iff _ _).1 hfits), (State.resetWith_inv s.params).2⟩

/-- An instruction that goes on from a `pc` that was fetched from stays below the bound on `pc`: it adds 2, or goes
where `GoesOn` says. -/
theorem GoesOn.pcBound {i : Instr} {s t : State} (h : GoesOn i s t) (hpc : s.pc.toNat ≤ 4094)
    (hstack : s.StackBound) : t.PcBound := by
  obtain hnext | ⟨-, hbound⟩ := h.pc
  · unfold State.PcBound
    rw [hnext]
    bv_omega
  · exact hbound hpc hstack

/-- An instruction that goes on from a `pc` that was fetched from keeps the bound on return addresses: a call pushes
`pc + 2`, which is at most 4096 (R113). -/
theorem GoesOn.stackBound {i : Instr} {s t : State} (h : GoesOn i s t) (hpc : s.pc.toNat ≤ 4094)
    (hstack : s.StackBound) : t.StackBound := by
  intro j
  obtain hkept | ⟨-, hsp, hpush⟩ := h.stack
  · exact hkept ▸ hstack j
  · have hpushed : (s.pc + 2).toNat ≤ 0x1000 := by bv_omega
    rw [hpush, Fin.getElem_fin, Vector.getElem_set]
    split
    · exact hpushed
    · exact hstack j

/-- Settles O56: each move keeps the invariant. A load brings its own state, a hand-off and a tick write nothing the
invariant speaks of, a raise ends the run, and a cycle that goes on has fetched from a `pc` of at most 4094. -/
theorem everyStepKeepsTheInvariant : Obligations.EveryStepKeepsTheInvariant := by
  intro s t hs h
  obtain ⟨bytes, -, rfl⟩ | ⟨-, rfl⟩ | ⟨-, -, rfl⟩ | ⟨-, hrun, ⟨k, hraised⟩ | ⟨w, i, hfetch, -, hgo⟩⟩ := step_cases h
  · exact State.load_inv (s := s.dropMove) hs bytes
  · rw [State.takeFrame_frame]
    exact hs
  · exact hs
  · exact ⟨hraised.memWf hs.1, fun hrun => absurd hrun hraised.not_running⟩
  · obtain ⟨hwf, hbounds⟩ := hs
    have hpc : s.dropMove.pc.toNat ≤ 4094 := State.pc_le_of_fetch_ok hfetch
    have hstack : s.dropMove.StackBound := (hbounds hrun).2
    exact ⟨hgo.memWf hwf, fun _ => ⟨hgo.pcBound hpc hstack, hgo.stackBound hpc hstack⟩⟩

end Sys2Proof.Machine

/-! PROOFS. The remaining statements about single instructions: flow (40_flow.md), the ALU (41_alu.md), the index
register and stores (42_index_memory.md), the keys (44_timers_input.md). The words of each are those its row selects
(`selectedBy_row`). -/

namespace Sys2Proof.Machine

open Config

/-! ## Flow -/

/-- A return from a state with an address held gives the slot below `sp` (R111). -/
theorem execRet_spec {u : State} {k : Nat} {v : Word} (hsp : u.sp.val = k + 1) (hslot : u.stack[k]? = some v) :
    ∃ t, execRet u = .next t ∧ t.pc = v ∧ t.sp.val = k := by
  refine ⟨_, execRet_of_pos (by omega), ?_, Nat.sub_eq_of_eq_add hsp⟩
  obtain ⟨hk, hget⟩ := Vector.getElem?_eq_some_iff.1 hslot
  simp [hsp, ← hget]

/-- Settles O26: the call leaves `pc + 2` in the slot below the new `sp` (`State.pushed_stack_same`), which is the slot
the return reads (`execRet_spec`). -/
theorem callThenReturnComesBack : Obligations.CallThenReturnComesBack := by
  refine fun nnn s hroom => ⟨_, execCall_of_lt hroom nnn, fun u hslot hsp => ?_⟩
  have hpushed : u.stack[s.sp.val]? = some (s.pc + 2) := hslot.trans (s.pushed_stack_same _ hroom)
  obtain ⟨v, hv, hpc, hsp'⟩ := execRet_spec (congrArg Fin.val hsp) hpushed
  exact ⟨v, hv, hpc, Fin.ext hsp'⟩

/-- Settles O28: both are the skip of `State.skipIf_spec`, on the equality of two registers or its opposite. -/
theorem registerSkips : Obligations.RegisterSkips := by
  refine ⟨selectedBy_row (.seReg 0 0), selectedBy_row (.sneReg 0 0), fun x y s => ⟨?_, ?_⟩⟩
  · exact ⟨s.skipIf (s.reg x == s.reg y), rfl, s.skipIf_spec beq_iff_eq.2 beq_eq_false_iff_ne.2⟩
  · exact ⟨s.skipIf (s.reg x != s.reg y), rfl, s.skipIf_spec bne_iff_ne.2 bne_eq_false_iff_eq.2⟩

/-- Settles O29: the target is the exact sum (`jumpTarget_toNat`). -/
theorem computedJumpIsExact : Obligations.ComputedJumpIsExact :=
  ⟨selectedBy_row (.jpV0 0), fun nnn s =>
    ⟨s.setPc (jumpTarget (s.reg 0) nnn), rfl, rfl, s.setPc_byteAt _, jumpTarget_toNat _ nnn⟩⟩

/-! ## The ALU -/

/-- The flag-writing form does what `FlaggedWrite` says, for an operation that computes `result` (R10, D4). -/
theorem State.flaggedWrite_aluFlagged (s : State) (x y : Nibble) (flag f : Byte → Byte → Byte)
    {result : Nat → Nat → Nat} (hf : ∀ a b, (f a b).toNat = result a.toNat b.toNat) :
    FlaggedWrite s (s.aluFlagged x y flag f) x y (flag (s.reg x) (s.reg y)) result := by
  obtain ⟨hframe, hreg⟩ := s.aluFlagged_spec x y flag f
  refine ⟨hframe, fun _ => rfl, ?_, fun hx => ?_, fun r hrx hrF => ?_⟩
  · rw [hreg x, if_pos rfl, hf]
    rfl
  · rw [hreg 0xF, if_neg hx.symm]
    rfl
  · rw [hreg r, if_neg hrx]
    exact if_neg hrF

/-- A flag is the condition's byte (R24). -/
theorem flagByte_decide (p : Prop) [Decidable p] : flagByte (decide p) = if p then 1 else 0 := by
  simp [flagByte]

theorem notBorrowFlag_eq (a b : Byte) : notBorrowFlag a b = if a.toNat < b.toNat then 0 else 1 := by
  rw [notBorrowFlag, flagByte_decide, ← ite_not]
  simp

/-- The difference of two bytes, modulo 256 (R138). -/
theorem byte_sub_toNat (a b : Byte) : (a - b).toNat = (a.toNat + 256 - b.toNat) % 256 := by
  have := b.isLt
  rw [BitVec.toNat_sub]
  omega

/-- Settles O33: the three are one form (`State.flaggedWrite_aluFlagged`) at the sum and the two differences. -/
theorem addAndSubtractWithFlag : Obligations.AddAndSubtractWithFlag := by
  refine ⟨selectedBy_row (.addReg 0 0), selectedBy_row (.subReg 0 0), selectedBy_row (.subnReg 0 0),
    fun x y s => ⟨⟨_, rfl, ?_⟩, ⟨_, rfl, ?_⟩, ⟨_, rfl, ?_⟩⟩⟩
  · rw [← flagByte_decide]
    exact s.flaggedWrite_aluFlagged x y carryFlag _ BitVec.toNat_add
  · rw [← notBorrowFlag_eq]
    exact s.flaggedWrite_aluFlagged x y notBorrowFlag _ byte_sub_toNat
  · rw [← notBorrowFlag_eq]
    exact s.flaggedWrite_aluFlagged x y notBorrowRevFlag _ fun a b => byte_sub_toNat b a

/-- The bit a right shift moves out is bit 0 (R139). -/
theorem shrFlag_eq (a b : Byte) : shrFlag a b = if a.getLsbD 0 then 1 else 0 := by
  unfold shrFlag
  revert a
  decide

/-- The bit a left shift moves out is bit 7 (R141). -/
theorem shlFlag_eq (a b : Byte) : shlFlag a b = if a.getLsbD 7 then 1 else 0 := by
  unfold shlFlag
  revert a
  decide

/-- Where `X` is F the result is computed from the flag (D4). -/
theorem FlaggedWrite.reg_flagReg {s t : State} {y : Nibble} {flag : Byte} {result : Nat → Nat → Nat}
    (h : FlaggedWrite s t 0xF y flag result) :
    (t.reg 0xF).toNat = result flag.toNat (if y = 0xF then flag else s.reg y).toNat := by
  obtain ⟨-, -, hresult, -⟩ := h
  exact hresult

/-- Settles O34: both are `State.flaggedWrite_aluFlagged`; with `X = F` the shift reads a flag of 0 or 1. -/
theorem shiftsByOne : Obligations.ShiftsByOne := by
  refine ⟨selectedBy_row (.shr 0 0), selectedBy_row (.shl 0 0), fun x y s => ⟨?_, ?_⟩⟩
  · have hwrite := s.flaggedWrite_aluFlagged x y shrFlag (fun a _ => a >>> 1) (result := fun a _ => a / 2)
      fun a _ => BitVec.toNat_ushiftRight a 1
    rw [shrFlag_eq] at hwrite
    refine ⟨_, rfl, hwrite, ?_⟩
    rintro rfl
    refine BitVec.eq_of_toNat_eq (hwrite.reg_flagReg.trans ?_)
    split <;> rfl
  · have hwrite := s.flaggedWrite_aluFlagged x y shlFlag (fun a _ => a <<< 1) (result := fun a _ => a * 2 % 256)
      fun a _ => by rw [BitVec.toNat_shiftLeft, Nat.shiftLeft_eq]
    rw [shlFlag_eq] at hwrite
    refine ⟨_, rfl, hwrite, ?_⟩
    rintro rfl
    by_cases hbit : (s.reg 0xF).getLsbD 7
    · exact .inr (BitVec.eq_of_toNat_eq (hwrite.reg_flagReg.trans (by rw [if_pos hbit]; rfl)))
    · exact .inl (BitVec.eq_of_toNat_eq (hwrite.reg_flagReg.trans (by rw [if_neg hbit]; rfl)))

/-- Settles O35: the register written is the byte drawn, bit by bit under the mask. -/
theorem randomByteUnderMask : Obligations.RandomByteUnderMask := by
  refine ⟨selectedBy_row (.rnd 0 0), fun x nn s => ⟨_, _, rfl, rfl, fun _ => rfl, rfl, fun k _ => ?_, fun q hq => ?_⟩⟩
  · rw [State.advance_reg, State.setReg_reg_same, BitVec.getLsbD_and]
  · exact s.setReg_reg_of_ne _ hq

/-- Settles O36: each of the twelve is `rfl` in every part, whatever memory is put in. -/
theorem aluTouchesRegistersOnly : Obligations.AluTouchesRegistersOnly := by
  intro i s halu
  cases i with
  | ldImm | addImm | ldReg | orReg | andReg | xorReg | addReg | subReg | shr | subnReg | shl | rnd =>
    exact ⟨_, rfl, rfl, fun _ => rfl, fun _ => rfl⟩
  | _ => exact absurd halu Bool.false_ne_true

/-! ## The index register and the stores -/

/-- Settles O39: the sum of two words, the byte zero extended. -/
theorem addToIndex : Obligations.AddToIndex := by
  refine ⟨selectedBy_row (.addIVx 0), fun x s =>
    ⟨(s.setI (s.I + zextByte (s.reg x))).advance, rfl, rfl, fun _ => rfl, ?_⟩⟩
  rw [State.advance_I, State.setI_I, BitVec.toNat_add, zextByte, BitVec.toNat_setWidth_of_le (by decide)]

/-- A fetch within the array reads its two bytes as a number (R55). -/
theorem State.fetch_toNat {u : State} (h : u.pc.toNat ≤ 4094) :
    ∃ w, u.fetch = .ok w ∧
      w.toNat = 256 * (u.byteAt u.pc.toNat).toNat + (u.byteAt (u.pc.toNat + 1)).toNat :=
  (fetchReadsTwoBytesBigEndian u).1 h

/-- Settles O21: after a store in range every address reads what `State.byteAfterStore` says
(`State.storeAtI_byteAfterStore`), and so does a fetch of bytes that are as the store left them. -/
theorem fetchSeesTheStoreBefore : Obligations.FetchSeesTheStoreBefore := by
  intro i s hi hin
  rw [← s.storedBytes_length hi] at hin
  obtain ⟨hpc, hbyte⟩ := State.storeAtI_byteAfterStore hin
  refine ⟨_, exec_of_stores hi s, hpc, fun u hu hhigh hlow => ?_⟩
  rw [← hbyte, ← hbyte, ← hhigh, ← hlow]
  exact State.fetch_toNat hu

/-! ## The keys -/

/-- Settles O49: above 15 the query faults, else the one answer decides both skips (`State.skipOnKey_spec`). -/
theorem keySkips : Obligations.KeySkips := by
  refine ⟨selectedBy_row (.skp 0), selectedBy_row (.sknp 0), fun x s => ⟨fun hv => ?_, fun hv => ⟨_, rfl, ?_⟩⟩⟩
  · have hraise (wanted : Bool) : s.skipOnKey x wanted = s.raise (.keyIndexOutOfRange (s.reg x)) := if_pos hv
    exact ⟨⟨_, rfl, hraise true⟩, ⟨_, rfl, hraise false⟩⟩
  · have hskip (wanted : Bool) : s.skipOnKey x wanted =
        s.drawnInput.skipIf (keyAnswer s.draws ((s.reg x).setWidth 4) == wanted) := if_neg (Nat.not_lt.2 hv)
    refine ⟨⟨_, congrArg Host.Outcome.next (hskip true), rfl, fun _ => rfl, ?_⟩,
      ⟨_, congrArg Host.Outcome.next (hskip false), rfl, fun _ => rfl, ?_⟩⟩
    · cases keyAnswer s.draws ((s.reg x).setWidth 4) <;> rfl
    · cases keyAnswer s.draws ((s.reg x).setWidth 4) <;> rfl

/-- With no key picked `takeKey` writes `pc` alone, as `FX0A_MODE` says (R205, D6). -/
theorem State.takeKey_none (s : State) (x : Nibble) :
    s.takeKey x none = s.setPc (if s.params.fx0aMode = .block then s.pc else s.pc + 2) := by
  cases hmode : s.params.fx0aMode <;> simp [State.takeKey, hmode, State.advance, State.setPc]

/-- Settles O50: a key is picked exactly when one is pressed, and it is one of those (`pickKey_spec`,
`mem_pressedKeys`). -/
theorem keyPoll : Obligations.KeyPoll := by
  refine ⟨selectedBy_row (.ldVxK 0), fun x s => ⟨_, rfl, ?_⟩⟩
  obtain ⟨hnone, hpick⟩ | ⟨k, hk, hpick⟩ := pickKey_spec s.params.fx0aPick s.draws (pressedKeys s.draws)
  · rw [hpick, State.takeKey_none]
    refine ⟨rfl, fun _ => rfl, fun _ _ => rfl, fun ⟨k, hk⟩ => ?_, fun _ => ⟨rfl, rfl⟩⟩
    exact absurd (hnone ▸ mem_pressedKeys.2 hk) List.not_mem_nil
  · have hpressed : keyAnswer s.draws k = true := mem_pressedKeys.1 hk
    rw [hpick]
    refine ⟨rfl, fun _ => rfl, fun r hr => s.setReg_reg_of_ne _ hr, fun _ => ⟨rfl, k, hpressed, ?_⟩, fun hall => ?_⟩
    · exact (congrArg BitVec.toNat (s.setReg_reg_same x _)).trans (BitVec.toNat_setWidth_of_le (by decide))
    · exact absurd (hall k) (Bool.eq_false_iff.not_left.2 hpressed)

end Sys2Proof.Machine

/-! PROOFS. The statements about drawing (43_display.md). A canvas drawn on is described by the set of cells that are
toggled (`Canvas.Toggles`); a pixel toggles one or none, and pixels that lie apart add up (`Canvas.Toggles.trans`), so
the columns of a row and the rows of a sprite do. -/

namespace Sys2Proof.Machine

open Config

/-! ## Canvases that differ by toggled cells -/

/-- The second canvas is the first with exactly the cells of `P` toggled, and its collision is the first's, or that a
cell of `P` was 1. -/
structure Canvas.Toggles (c d : Canvas) (P : Nat → Nat → Prop) : Prop where
  toggled : ∀ cx < 64, ∀ cy < 32, P cx cy → Frame.cell d.fb cx cy = !Frame.cell c.fb cx cy
  kept : ∀ cx < 64, ∀ cy < 32, ¬P cx cy → Frame.cell d.fb cx cy = Frame.cell c.fb cx cy
  hit : d.hit = true ↔ c.hit = true ∨ ∃ cx < 64, ∃ cy < 32, P cx cy ∧ Frame.cell c.fb cx cy = true

/-- Nothing drawn. -/
theorem Canvas.Toggles.refl (c : Canvas) : c.Toggles c fun _ _ => False where
  toggled _ _ _ _ h := h.elim
  kept _ _ _ _ _ := rfl
  hit := by simp

/-- Drawings on cells that lie apart add up: the second finds its cells as they were before the first. -/
theorem Canvas.Toggles.trans {c d e : Canvas} {P Q : Nat → Nat → Prop} (h : c.Toggles d P) (h' : d.Toggles e Q)
    (hdisj : ∀ cx cy, P cx cy → ¬Q cx cy) : c.Toggles e fun cx cy => P cx cy ∨ Q cx cy where
  toggled cx hx cy hy hPQ := by
    obtain hP | hQ := hPQ
    · rw [h'.kept cx hx cy hy (hdisj cx cy hP), h.toggled cx hx cy hy hP]
    · rw [h'.toggled cx hx cy hy hQ, h.kept cx hx cy hy fun hP => hdisj cx cy hP hQ]
  kept cx hx cy hy hPQ := by
    obtain ⟨hP, hQ⟩ := not_or.1 hPQ
    rw [h'.kept cx hx cy hy hQ, h.kept cx hx cy hy hP]
  hit := by
    have hcell {cx cy : Nat} (hx : cx < 64) (hy : cy < 32) (hQ : Q cx cy) :
        Frame.cell d.fb cx cy = Frame.cell c.fb cx cy :=
      h.kept cx hx cy hy fun hP => hdisj cx cy hP hQ
    rw [h'.hit, h.hit, or_assoc]
    refine or_congr_right ⟨?_, ?_⟩
    · rintro (⟨cx, hx, cy, hy, hP, hset⟩ | ⟨cx, hx, cy, hy, hQ, hset⟩)
      · exact ⟨cx, hx, cy, hy, .inl hP, hset⟩
      · exact ⟨cx, hx, cy, hy, .inr hQ, hcell hx hy hQ ▸ hset⟩
    · rintro ⟨cx, hx, cy, hy, hP | hQ, hset⟩
      · exact .inl ⟨cx, hx, cy, hy, hP, hset⟩
      · exact .inr ⟨cx, hx, cy, hy, hQ, (hcell hx hy hQ).trans hset⟩

theorem Canvas.Toggles.congr {c d : Canvas} {P Q : Nat → Nat → Prop} (h : c.Toggles d P)
    (hPQ : ∀ cx cy, P cx cy ↔ Q cx cy) : c.Toggles d Q :=
  (funext₂ fun cx cy => propext (hPQ cx cy) : P = Q) ▸ h

/-! ## Pixels, rows, sprites (R181, R182, R183) -/

/-- A cell is read at its reduced coordinates (R183). -/
theorem Frame.cell_mod (f : Frame) (x y : Nat) : Frame.cell f (x % 64) (y % 32) = Frame.cell f x y := by
  simp [Frame.cell]

/-- One pixel toggles its cell where its bit is set. -/
theorem Canvas.pixel_toggles (c : Canvas) (b : Byte) (x0 y col : Nat) :
    c.Toggles (c.pixel b x0 y col) fun cx cy => spriteBit b col = true ∧ cx = (x0 + col) % 64 ∧ cy = y % 32 where
  toggled cx hx cy hy hP := by
    rw [(c.pixel_spec b x0 y col cx cy).1, Nat.mod_eq_of_lt hx, Nat.mod_eq_of_lt hy, if_pos hP]
  kept cx hx cy hy hP := by
    rw [(c.pixel_spec b x0 y col cx cy).1, Nat.mod_eq_of_lt hx, Nat.mod_eq_of_lt hy, if_neg hP]
  hit := by
    rw [(c.pixel_spec b x0 y col 0 0).2, Bool.or_eq_true, Bool.and_eq_true, ← Frame.cell_mod]
    refine or_congr_right ⟨fun ⟨hbit, hset⟩ => ?_, ?_⟩
    · exact ⟨_, Nat.mod_lt _ (by decide), _, Nat.mod_lt _ (by decide), ⟨hbit, rfl, rfl⟩, hset⟩
    · rintro ⟨cx, -, cy, -, ⟨hbit, rfl, rfl⟩, hset⟩
      exact ⟨hbit, hset⟩

/-- The first columns of a row, at most 64 of them, lie apart: each set bit toggles its cell. -/
theorem Canvas.columns_toggles (c : Canvas) (b : Byte) (x0 y : Nat) {n : Nat} (hn : n ≤ 64) :
    c.Toggles ((List.range n).foldl (fun c col => c.pixel b x0 y col) c)
      fun cx cy => ∃ col < n, spriteBit b col = true ∧ cx = (x0 + col) % 64 ∧ cy = y % 32 := by
  induction n with
  | zero => exact (Canvas.Toggles.refl c).congr (by simp)
  | succ n ih =>
    rw [List.range_succ, List.foldl_concat]
    refine ((ih (by omega)).trans (Canvas.pixel_toggles _ b x0 y n) ?_).congr fun cx cy => ?_
    · rintro cx cy ⟨col, hcol, -, hx, -⟩ ⟨-, hx', -⟩
      omega
    · simp only [Nat.lt_succ_iff_lt_or_eq, or_and_right, exists_or, exists_eq_left]

/-- A set bit of the sprite drawn from column `x0`, row `y` on covers the cell (R181, R182, R183). -/
def SpriteCovers (x0 y : Nat) (bytes : List Byte) (cx cy : Nat) : Prop :=
  ∃ row b, bytes[row]? = some b ∧ ∃ col < 8, spriteBit b col = true ∧ cx = (x0 + col) % 64 ∧ cy = (y + row) % 32

/-- The first row of a sprite, and the rest one row below. -/
theorem spriteCovers_cons (x0 y : Nat) (b : Byte) (bs : List Byte) (cx cy : Nat) :
    SpriteCovers x0 y (b :: bs) cx cy ↔
      (∃ col < 8, spriteBit b col = true ∧ cx = (x0 + col) % 64 ∧ cy = y % 32) ∨
        SpriteCovers x0 (y + 1) bs cx cy := by
  constructor
  · rintro ⟨row, b', hb, hcov⟩
    cases row with
    | zero => exact .inl (Option.some.inj hb ▸ hcov)
    | succ row => exact .inr ⟨row, b', hb, by rwa [Nat.add_right_comm]⟩
  · rintro (hcov | ⟨row, b', hb, hcov⟩)
    · exact ⟨0, b, rfl, hcov⟩
    · exact ⟨row + 1, b', hb, by rwa [Nat.add_right_comm] at hcov⟩

/-- The rows of a sprite, at most 32 of them, lie apart: the cells its set bits cover are toggled. -/
theorem Canvas.rows_toggles (bytes : List Byte) (c : Canvas) (x0 y : Nat) (hlen : bytes.length ≤ 32) :
    c.Toggles (c.rows x0 y bytes) (SpriteCovers x0 y bytes) := by
  induction bytes generalizing c y with
  | nil => exact (Canvas.Toggles.refl c).congr (by simp [SpriteCovers])
  | cons b bs ih =>
    rw [List.length_cons] at hlen
    refine ((Canvas.columns_toggles c b x0 y (by decide)).trans (ih _ (y + 1) (by omega)) ?_).congr
      fun cx cy => (spriteCovers_cons x0 y b bs cx cy).symm
    rintro cx cy ⟨_, _, -, -, hy⟩ ⟨row, _, hb, _, _, -, -, hy'⟩
    have hrow : row < bs.length := (List.getElem?_eq_some_iff.1 hb).1
    omega

/-! ## The instruction (R181) -/

/-- What a drawing does, for the set of cells covered: they are toggled, the flag says whether one of them was 1, the
draw-flag is set, `pc` advances, and nothing else changes. -/
structure Drawn (s t : State) (P : Nat → Nat → Prop) : Prop where
  frame : t = { s with V := t.V, fb := t.fb, draw := true, pc := s.pc + 2 }
  bytes : KeepsBytes s t
  toggled : ∀ cx < 64, ∀ cy < 32, P cx cy → Frame.cell t.fb cx cy = !Frame.cell s.fb cx cy
  kept : ∀ cx < 64, ∀ cy < 32, ¬P cx cy → Frame.cell t.fb cx cy = Frame.cell s.fb cx cy
  flag_one : (∃ cx < 64, ∃ cy < 32, P cx cy ∧ Frame.cell s.fb cx cy = true) → t.reg 0xF = 1
  flag_zero : (¬∃ cx < 64, ∃ cy < 32, P cx cy ∧ Frame.cell s.fb cx cy = true) → t.reg 0xF = 0
  reg : ∀ r, r ≠ 0xF → t.reg r = s.reg r

/-- The flag and the picture painted from a canvas that toggles `P`. -/
theorem Canvas.Toggles.drawn {s : State} {d : Canvas} {P : Nat → Nat → Prop}
    (h : Canvas.Toggles { fb := s.fb, hit := false } d P) :
    Drawn s ((s.setReg flagReg (flagByte d.hit)).paint d.fb).advance P where
  frame := rfl
  bytes _ := rfl
  toggled := h.toggled
  kept := h.kept
  flag_one hset := by
    have hhit : d.hit = true := h.hit.2 (.inr hset)
    exact (s.setReg_reg_same flagReg _).trans (by rw [hhit]; rfl)
  flag_zero hclear := by
    have hhit : d.hit = false := Bool.eq_false_iff.2 fun hd => (h.hit.1 hd).elim Bool.false_ne_true hclear
    exact (s.setReg_reg_same flagReg _).trans (by rw [hhit]; rfl)
  reg r hr := s.setReg_reg_of_ne _ hr

/-- The rows read from `I` on cover the cells the statements speak of. -/
theorem State.spriteCovers_iff_covers (s : State) (x0 y0 n cx cy : Nat) :
    SpriteCovers x0 y0 ((List.range n).map fun k => s.byteAt (s.I.toNat + k)) cx cy ↔
      s.Covers x0 y0 n cx cy := by
  constructor
  · rintro ⟨row, b, hb, hcov⟩
    obtain ⟨hrow, rfl⟩ := List.getElem?_eq_some_iff.1 hb
    exact ⟨row, by simpa using hrow, by simpa [spriteBit] using hcov⟩
  · rintro ⟨row, hrow, hcov⟩
    exact ⟨row, _, by simp [hrow], hcov⟩

/-- A drawing whose rows lie in memory, or that has none, toggles the cells its sprite covers. -/
theorem execDrw_drawn (x y : Nibble) {n : Nibble} {s : State} (h : s.DataInRange n.toNat ∨ n = 0) :
    ∃ t, exec (.drw x y n) s = .next t ∧ Drawn s t (s.Covers (s.reg x).toNat (s.reg y).toNat n.toNat) := by
  obtain ⟨bytes, hbytes, hexec⟩ := execDrw_ok (x := x) (y := y) h
  have hlen : bytes.length ≤ 32 := by
    have := n.isLt
    rw [hbytes, List.length_map, List.length_range]
    omega
  refine ⟨_, hexec, ((Canvas.rows_toggles bytes _ _ _ hlen).congr fun cx cy => ?_).drawn⟩
  rw [hbytes, State.spriteCovers_iff_covers]

/-- Settles O46: in range the drawing is `execDrw_drawn`; past the end of memory it faults (`execDrw_error`). -/
theorem drawXorsTheSprite : Obligations.DrawXorsTheSprite := by
  refine ⟨selectedBy_row (.drw 0 0 0), fun x y n s => ⟨fun hin => ?_, fun hout hn => ?_⟩⟩
  · obtain ⟨t, ht, hdrawn⟩ := execDrw_drawn x y hin
    exact ⟨t, ht, hdrawn.frame, hdrawn.bytes,
      fun cx hx cy hy => ⟨hdrawn.toggled cx hx cy hy, hdrawn.kept cx hx cy hy⟩,
      hdrawn.flag_one, hdrawn.flag_zero, hdrawn.reg⟩
  · exact ⟨_, execDrw_error hn (Nat.lt_of_not_le hout), s.raiseData_max_status⟩

/-- A drawing leaves `I` and the memory, so the same sprite covers the same cells after it. -/
theorem Drawn.covers_eq {s t : State} {P : Nat → Nat → Prop} (h : Drawn s t P) (x0 y0 n : Nat) :
    t.Covers x0 y0 n = s.Covers x0 y0 n := by
  have hI : t.I = s.I := by rw [h.frame]
  funext cx cy
  simp only [State.Covers, hI, h.bytes _]

/-- Two drawings of the same cells restore the grid. -/
theorem Drawn.fb_of_twice {s t u : State} {P : Nat → Nat → Prop} (h : Drawn s t P) (h' : Drawn t u P) :
    u.fb = s.fb := by
  refine Frame.ext_cell fun cx hx cy hy => ?_
  by_cases hP : P cx cy
  · rw [h'.toggled cx hx cy hy hP, h.toggled cx hx cy hy hP, Bool.not_not]
  · rw [h'.kept cx hx cy hy hP, h.kept cx hx cy hy hP]

/-- After a drawing a covered cell is 1 exactly where it was 0 before. -/
theorem Drawn.exists_set_iff {s t : State} {P : Nat → Nat → Prop} (h : Drawn s t P) :
    (∃ cx < 64, ∃ cy < 32, P cx cy ∧ Frame.cell t.fb cx cy = true) ↔
      ∃ cx < 64, ∃ cy < 32, P cx cy ∧ Frame.cell s.fb cx cy = false := by
  have hcell {cx cy : Nat} (hx : cx < 64) (hy : cy < 32) (hP : P cx cy) :
      Frame.cell t.fb cx cy = true ↔ Frame.cell s.fb cx cy = false := by
    rw [h.toggled cx hx cy hy hP, Bool.not_eq_true']
  constructor
  · rintro ⟨cx, hx, cy, hy, hP, hset⟩
    exact ⟨cx, hx, cy, hy, hP, (hcell hx hy hP).1 hset⟩
  · rintro ⟨cx, hx, cy, hy, hP, hclear⟩
    exact ⟨cx, hx, cy, hy, hP, (hcell hx hy hP).2 hclear⟩

/-- Settles O47: the second drawing has the same coordinates, since neither is the flag, and covers the same cells
(`Drawn.covers_eq`), each toggled twice. -/
theorem drawingTwiceRestores : Obligations.DrawingTwiceRestores := by
  intro x y n s hx hy hin
  obtain ⟨t, ht, hfirst⟩ := execDrw_drawn x y hin
  have hI : t.I = s.I := by rw [hfirst.frame]
  have hin' : t.DataInRange n.toNat ∨ n = 0 := by rwa [State.DataInRange, hI]
  obtain ⟨u, hu, hsecond⟩ := execDrw_drawn x y hin'
  rw [hfirst.reg x hx, hfirst.reg y hy, hfirst.covers_eq] at hsecond
  rw [← hfirst.exists_set_iff]
  exact ⟨t, u, ht, hu, hfirst.fb_of_twice hsecond, hsecond.flag_one, hsecond.flag_zero⟩

end Sys2Proof.Machine
